-- ==== Sys2Proof/Word.lean ====
section
/-! DEFINITION. The word types of TEA-CORE: bytes, 32-bit register words and 64-bit block words
(spec 00_scope.md R4, R5). Every value of these types is unsigned; `+` and `-` wrap. -/

namespace Sys2Proof

/-- An unsigned 8-bit byte (R6). -/
abbrev Byte := BitVec 8

/-- A 32-bit register value or round half (R4, R5). -/
abbrev Word := BitVec 32

/-- A 64-bit block word or chaining accumulator (R48, R76). -/
abbrev DWord := BitVec 64

/-- `2^32`, the number of byte addresses of the system bus (R70) and the modulus of every register value. -/
abbrev addressSpace : Nat := 4294967296

end Sys2Proof
end

