-- ==== Sys2Proof/Config.lean ====
section
/-! DEFINITION. The free values of TEA-CORE, and the values `State.reset` takes for the platform parameters
that the spec leaves OPEN (spec 00_scope.md R3, 92_eei_decisions.md). -/

namespace Sys2Proof.Config

/-- A byte the spec leaves unspecified (93 U1, U4, U5, U6): the k-th draw. It has no body, so nothing can be
proved about its value. Log 9. -/
opaque freeByte : Nat → Byte

/-- A register word the spec leaves unspecified (93 U1): the k-th draw. Log 9. -/
opaque freeWord : Nat → Word

/-- `ENGINE_BASE` of the platform of `State.reset`. DESIGN CHOICE: the spec leaves it OPEN (D27). Log 7. -/
def engineBaseAtReset : Word := 0x40000000

/-- `DMA_COHERENT` of the platform of `State.reset`. DESIGN CHOICE: the spec leaves it OPEN (D26). Log 8. -/
def dmaCoherentAtReset : Bool := true

end Sys2Proof.Config
end

