-- ==== Sys2Proof/Machine/Tables.lean ====
section
/-! DEFINITION. The built-in round-constant table that spec 42_cipher_core.md R151 proposes. -/

namespace Sys2Proof.Machine

/-- The table R151 proposes: entry `i` is `(i + 1) * 0x9E3779B9` modulo 2^32. PRESUMED: the spec marks it general
knowledge, not in the source (93 G1). Only `State.reset` uses it; every meaning reads the table from the state.
Log 3. -/
def proposedBuiltinTable : Vector Word 16 :=
  #v[0x9E3779B9, 0x3C6EF372, 0xDAA66D2B, 0x78DDE6E4,
     0x1715609D, 0xB54CDA56, 0x5384540F, 0xF1BBCDC8,
     0x8FF34781, 0x2E2AC13A, 0xCC623AF3, 0x6A99B4AC,
     0x08D12E65, 0xA708A81E, 0x454021D7, 0xE3779B90]

end Sys2Proof.Machine
end

