-- ==== Sys2Proof/Syntax.lean ====
section
/-! DEFINITION. The commands of TEA-CORE (spec 30_encoding.md R102), the fields of a command word (R101), the
registers of the window (10_state.md R20) and the moves of the host and the platform (30_encoding.md R110,
70_reset_and_hazards.md R243). -/

namespace Sys2Proof

/-- The byte order of a command, its `ORD` field (R104): `ORD = 0` is the normalizing form, `ORD = 1` the
native form (suffix `.NAT`). -/
inductive ByteOrder where
  | normalizing
  | native
deriving DecidableEq, Repr

/-- The commands, one constructor per row of the opcode table (R102). -/
inductive Instr where
  | bswap16 (o : ByteOrder)
  | bswap32 (o : ByteOrder)
  | bswap64 (o : ByteOrder)
  | ctlen
  | ptlen
  | encb (o : ByteOrder)
  | encc (o : ByteOrder)
  | decb (o : ByteOrder)
  | decc (o : ByteOrder)
deriving DecidableEq, Repr

/-- The fields of a command word (R101). Any four values are a term; which are legal is R107
(`CommandFields.legal` in WellFormed). -/
structure CommandFields where
  op   : BitVec 4
  tsel : Bool
  ord  : Bool
  rsv  : BitVec 26
deriving DecidableEq, Repr

/-- The registers of the window by name (R20), and `reserved` for every other word-aligned offset (R45). -/
inductive Reg where
  | id | cmd | status | errAddr
  | srcAddr | srcLen | dstAddr | dstCap
  | resultLen | resultOff | arg
  | dinLo | dinHi | doutLo | doutHi
  | key (i : Fin 4)
  | fill (i : Fin 3)
  | tbl (i : Fin 16)
  | reserved
deriving DecidableEq, Repr

/-- The width of a host access to the window. Only `w32` at an aligned offset is defined (R21). -/
inductive Width where
  | w8 | w16 | w32 | w64
deriving DecidableEq, Repr

/-- The direction of a byte access of the engine's bus-master port (20_memory.md R84). -/
inductive AccessKind where
  | read
  | write
deriving DecidableEq, Repr

/-- One move of the host or the platform (R110, R243). A label is the index of a move in the list, and a name
is a number (log 14).
`wr`, `rd`: a write or read of the window at `ENGINE_BASE + off` (R110 `WR`, `RD`; R21 for the other widths).
`memw`, `memr`: stores and loads of buffer bytes (R110 `MEMW`, `MEMR`).
`bnz`: branch if the named value AND the mask is not 0 (R110 `BNZ`).
`invalidate`: the host drops its cached copies of a range (R96, R238 item 4).
`assertReset`: the platform asserts RESET (R230). -/
inductive Move where
  | wr (off : BitVec 12) (width : Width) (value : Word)
  | rd (off : BitVec 12) (width : Width) (name : Nat)
  | memw (addr : Word) (bytes : List Byte)
  | memr (addr : Word) (n : Nat) (name : Nat)
  | bnz (name : Nat) (mask : Word) (target : Nat)
  | invalidate (addr : Word) (n : Nat)
  | assertReset
deriving DecidableEq, Repr

end Sys2Proof
end

