-- ==== Sys2Proof/Machine/State.lean ====
section
/-! DEFINITION. The state of TEA-CORE as plain data: the register window and the hidden state of spec
10_state.md, system memory and the platform parameters (20_memory.md, 00_scope.md R3), and the host's moves
(30_encoding.md R110). `State.reset` is 70_reset_and_hazards.md R231. -/

namespace Sys2Proof.Machine

/-- System memory: (address, byte) pairs with addresses strictly rising and no entry equal to what an unlisted
address reads as (`Memory.wf`). -/
abbrev Memory := List Host.Cell

/-- What a byte that nothing has written reads as. DESIGN CHOICE, unsafe: the spec gives system memory no reset
contents. Log 5. -/
def Memory.unlisted : Byte := 0

/-- The bits of STATUS that have storage and are not BUSY (R24): ERR is computed from ERRCODE (R27), and BUSY is
the engine's state (R53). -/
structure Status where
  done    : Bool
  lrange  : Bool
  cmdLost : Bool
  errCode : BitVec 4
deriving DecidableEq, Repr

/-- STATUS right after reset (R231). -/
def Status.reset : Status := ⟨false, false, false, 0⟩

/-- The engine's state (R53): IDLE, or RUN with the latched command word (R50) and the number of host moves left
before it completes (R244, R246; log 2). -/
inductive Engine where
  | idle
  | run (word : Word) (wait : Nat)
deriving DecidableEq, Repr

/-- The hidden registers of the cipher (R48, R49). -/
structure Sequencer where
  chA : DWord
  chB : DWord
  blk : Nat
  rnd : Fin 16
  v0  : Word
  v1  : Word
deriving DecidableEq, Repr

/-- The hidden registers right after reset (R231). -/
def Sequencer.zero : Sequencer := ⟨0, 0, 0, 0, 0, 0⟩

/-- Bytes `lo` to `lo + len - 1` whose accesses of one kind the platform refuses (R84). -/
structure BusWindow where
  lo   : Nat
  len  : Nat
  kind : AccessKind
deriving DecidableEq, Repr

/-- The platform parameters of R3, as plain data that no step changes (log 3, 6, 7, 8). -/
structure Platform where
  builtin     : Vector Word 16
  engineBase  : Word
  busRefused  : List BusWindow
  dmaCoherent : Bool
deriving DecidableEq, Repr

/-- The platform of `State.reset` (DESIGN CHOICE, log 3, 6, 7, 8): the table R151 proposes, and the parameters the
programs of 95_test_vectors.md state (every access admitted, coherent). -/
def Platform.atReset : Platform :=
  ⟨proposedBuiltinTable, Config.engineBaseAtReset, [], Config.dmaCoherentAtReset⟩

/-- What happened to the host's cached copies of a range, for R96 (log 13). -/
inductive CoherenceEvent where
  | engineWrote (addr len : Nat)
  | invalidated (addr len : Nat)
deriving DecidableEq, Repr

/-- The value a host read names (R110): a register word or a byte sequence. -/
inductive HostValue where
  | word (w : Word)
  | bytes (bs : List Byte)
deriving DecidableEq, Repr

/-- The machine: engine, system memory, platform, and the host's moves. -/
structure State where
  engine     : Engine
  status     : Status
  errAddr    : Word
  srcAddr    : Word
  srcLen     : Word
  dstAddr    : Word
  dstCap     : Word
  resultLen  : Word
  resultOff  : Word
  arg        : Word
  dinLo      : Word
  dinHi      : Word
  doutLo     : Word
  doutHi     : Word
  key        : Vector Word 4
  fill       : Vector Word 3
  tbl        : Vector Word 16
  seq        : Sequencer
  mem        : Memory
  plat       : Platform
  /-- How many free values have been drawn (log 9). -/
  draws      : Nat
  /-- For each later acceptance, how many host moves happen before the engine completes (log 2). -/
  waits      : List Nat
  /-- Newest first (log 13). -/
  coherence  : List CoherenceEvent
  /-- The moves of the host and the platform, in order (log 14). -/
  prog       : List Move
  /-- The index of the next move. -/
  hpc        : Nat
  /-- The values that reads have named, newest first. -/
  names      : List (Nat × HostValue)
deriving DecidableEq, Repr

/-- The reasons the machine stops. A failed command is no fault: it completes with an error code (R200). -/
inductive Fault where
  /-- Raised by a host store or load whose range passes address 2^32-1: no such byte exists (R70). Safe: the
  spec gives such an access no effect. Log 17. -/
  | noSuchAddress
deriving DecidableEq, Repr

/-- The reasons a step has no meaning. No command is refused. -/
inductive Refusal where
  /-- Raised by `exec` alone, for a command without a meaning. Safe. No arm raises it. -/
  | notModelled (mnemonic : String)
  /-- Raised by a host store into the ranges of the running command, or a host load of a stale byte: the host
  breaks a duty of R238, and R243 gives it no move. Safe or toward proving, as R243 says. Log 12, 13. -/
  | hostDuty
  /-- Raised by `BNZ` on a name that no read has given, or that names bytes: R110 gives it no meaning. Safe.
  Log 16. -/
  | noSuchName
deriving DecidableEq, Repr

/-- The machine right after reset (R231), with no host move and the platform of `Platform.atReset`. -/
def State.reset : State where
  engine     := .idle
  status     := Status.reset
  errAddr    := 0
  srcAddr    := 0
  srcLen     := 0
  dstAddr    := 0
  dstCap     := 0
  resultLen  := 0
  resultOff  := 0
  arg        := 0
  dinLo      := 0
  dinHi      := 0
  doutLo     := 0
  doutHi     := 0
  key        := Vector.replicate 4 0
  fill       := Vector.replicate 3 0
  tbl        := Vector.replicate 16 0
  seq        := Sequencer.zero
  mem        := []
  plat       := Platform.atReset
  draws      := 0
  waits      := []
  coherence  := []
  prog       := []
  hpc        := 0
  names      := []

end Sys2Proof.Machine
end

