-- ==== Sys2Proof/Machine/Flags.lean ====
section
/-! DEFINITION. STATUS: its word, and how acceptance, completion, a failure and a host write change it (spec
10_state.md R24 to R31, R50, R52). -/

namespace Sys2Proof.Machine

/-- `STATUS.BUSY` (R25, R53): the engine is in RUN. -/
def State.busy (s : State) : Bool :=
  match s.engine with
  | .idle => false
  | .run _ _ => true

/-- `STATUS.ERR` (R27). -/
def Status.err (st : Status) : Bool := st.errCode != 0

/-- The word a read of `STATUS` returns (R24): reserved bits read 0. -/
def State.statusWord (s : State) : Word :=
  (0 : BitVec 20) ++ s.status.errCode ++ (0 : BitVec 3) ++ BitVec.ofBool s.status.cmdLost ++
    BitVec.ofBool s.status.lrange ++ BitVec.ofBool s.status.err ++ BitVec.ofBool s.status.done ++
    BitVec.ofBool s.busy

/-- STATUS at acceptance (R50): DONE, ERRCODE and LRANGE become 0; CMDLOST keeps its value (R29). -/
def Status.accept (st : Status) : Status := { st with done := false, errCode := 0, lrange := false }

/-- STATUS at completion with an error code and a length-range indicator (R52). -/
def Status.complete (st : Status) (code : BitVec 4) (lrange : Bool) : Status :=
  { st with done := true, errCode := code, lrange := lrange }

/-- A host write of `w` to `STATUS` (R31): bit 1 clears DONE, bit 4 clears CMDLOST, other bits are ignored. -/
def Status.hostWrite (st : Status) (w : Word) : Status :=
  { st with
    done := st.done && !w.getLsbD 1
    cmdLost := st.cmdLost && !w.getLsbD 4 }

/-- The length-range indicator of a length result (R28): its integer value is outside 0..2^32-1. -/
def lengthOutOfRange (v : Int) : Bool := decide (v < 0 ∨ (addressSpace : Int) ≤ v)

end Sys2Proof.Machine
end

