-- ==== Sys2Proof/Machine/Operands.lean ====
section
/-! DEFINITION. How operands are formed: the byte swaps (spec 40_normalizer.md R120, R121), block words from and to
bytes (20_memory.md R74 to R78), the operand registers of a command (30_encoding.md R106) and the register a
window offset names (10_state.md R20). -/

namespace Sys2Proof.Machine

/-- `bswap16` (R120). -/
def bswap16 (v : BitVec 16) : BitVec 16 := v.extractLsb' 0 8 ++ v.extractLsb' 8 8

/-- `bswap32` (R120). -/
def bswap32 (v : Word) : Word :=
  v.extractLsb' 0 8 ++ v.extractLsb' 8 8 ++ v.extractLsb' 16 8 ++ v.extractLsb' 24 8

/-- `bswap64` (R120). -/
def bswap64 (v : DWord) : DWord :=
  v.extractLsb' 0 8 ++ v.extractLsb' 8 8 ++ v.extractLsb' 16 8 ++ v.extractLsb' 24 8 ++
    v.extractLsb' 32 8 ++ v.extractLsb' 40 8 ++ v.extractLsb' 48 8 ++ v.extractLsb' 56 8

/-- The swap of a `BSWAP*` form: the swap in normalizing order, the identity in native order (R121). -/
def inOrder {n : Nat} (o : ByteOrder) (swap : BitVec n → BitVec n) (v : BitVec n) : BitVec n :=
  match o with
  | .normalizing => swap v
  | .native => v

/-- `le64(b)` (R74): byte `j` has weight `2^(8j)`. -/
def le64 : List Byte → DWord
  | [] => 0
  | b :: bs => b.setWidth 64 ||| (le64 bs <<< 8)

/-- The eight bytes of a 64-bit word, least significant first (R77). -/
def bytesOf64 (w : DWord) : List Byte := (List.range 8).map fun j => w.extractLsb' (8 * j) 8

/-- `LoadBlock(o, b)` (R76). -/
def loadBlock (o : ByteOrder) (b : List Byte) : DWord := inOrder o bswap64 (le64 b)

/-- `StoreBlock(o, v)` (R77). -/
def storeBlock (o : ByteOrder) (v : DWord) : List Byte := bytesOf64 (inOrder o bswap64 v)

/-- `DIN` (R40, R106). -/
def State.din (s : State) : DWord := s.dinHi ++ s.dinLo

/-- `DOUT` (R41). -/
def State.dout (s : State) : DWord := s.doutHi ++ s.doutLo

/-- `FIRSTBYTE`, bits 7:0 of `ARG` (R39, R106). -/
def State.firstByte (s : State) : Byte := s.arg.extractLsb' 0 8

/-- Which round-constant table a cipher command uses, its `TSEL` field (R103). -/
inductive TableSelect where
  | builtin
  | custom
deriving DecidableEq, Repr

/-- `Table(TSEL)` (42_cipher_core.md R153). -/
def State.table (s : State) : TableSelect → Vector Word 16
  | .builtin => s.plat.builtin
  | .custom => s.tbl

/-- The register at a window offset (R20): registers stand at word-aligned offsets, and every offset that R20 does not
name is reserved (R45). -/
def regAt (off : Nat) : Reg :=
  match off with
  | 0x000 => .id
  | 0x004 => .cmd
  | 0x008 => .status
  | 0x00C => .errAddr
  | 0x010 => .srcAddr
  | 0x014 => .srcLen
  | 0x018 => .dstAddr
  | 0x01C => .dstCap
  | 0x020 => .resultLen
  | 0x024 => .resultOff
  | 0x028 => .arg
  | 0x030 => .dinLo
  | 0x034 => .dinHi
  | 0x038 => .doutLo
  | 0x03C => .doutHi
  | o =>
    if o % 4 ≠ 0 then .reserved
    else if h : 0x040 ≤ o ∧ o < 0x050 then .key ⟨(o - 0x040) / 4, by omega⟩
    else if h : 0x050 ≤ o ∧ o < 0x05C then .fill ⟨(o - 0x050) / 4, by omega⟩
    else if h : 0x080 ≤ o ∧ o < 0x0C0 then .tbl ⟨(o - 0x080) / 4, by omega⟩
    else .reserved

/-- The window offset of a register (R20). For `reserved` it is 0x02C, the first reserved offset. -/
def regOffset : Reg → BitVec 12
  | .id => 0x000
  | .cmd => 0x004
  | .status => 0x008
  | .errAddr => 0x00C
  | .srcAddr => 0x010
  | .srcLen => 0x014
  | .dstAddr => 0x018
  | .dstCap => 0x01C
  | .resultLen => 0x020
  | .resultOff => 0x024
  | .arg => 0x028
  | .reserved => 0x02C
  | .dinLo => 0x030
  | .dinHi => 0x034
  | .doutLo => 0x038
  | .doutHi => 0x03C
  | .key i => BitVec.ofNat 12 (0x040 + 4 * i.val)
  | .fill i => BitVec.ofNat 12 (0x050 + 4 * i.val)
  | .tbl i => BitVec.ofNat 12 (0x080 + 4 * i.val)

/-- The address `ENGINE_BASE + off` is a multiple of 4 (R21). `ENGINE_BASE` may be any address (R3). Log 28. -/
def Platform.alignedAt (p : Platform) (off : BitVec 12) : Bool := (p.engineBase.toNat + off.toNat) % 4 == 0

/-- An access to the window is defined: 32 bits wide at an address that is a multiple of 4 (R21). DESIGN CHOICE: the
spec does not say whether the part of the window past address 2^32-1 exists; a `WR` or `RD` there is as any other,
with no bound and no wrap. Log 31. -/
def accessDefined (p : Platform) (off : BitVec 12) (width : Width) : Bool := width == .w32 && p.alignedAt off

/-- The window holds the byte at a system address (R20): it is one of the 4096 bytes at `ENGINE_BASE`. The part of the
window past 2^32-1, which `WR` and `RD` reach, holds no system address, and it does not wrap to address 0. Log 31. -/
def Platform.inWindow (p : Platform) (addr : Nat) : Bool :=
  p.engineBase.toNat ≤ addr && addr < p.engineBase.toNat + 4096

/-- `BusAdmit(addr, kind)` (R84): the platform refuses exactly the accesses its windows list. Log 6. -/
def Platform.admits (p : Platform) (addr : Nat) (kind : AccessKind) : Bool :=
  !p.busRefused.any fun w => w.kind == kind && w.lo ≤ addr && addr < w.lo + w.len

end Sys2Proof.Machine
end

