-- ==== Sys2Proof/Machine/Ops.lean ====
section
/-! DEFINITION. The named operations of the machine: bytes of system memory (spec 20_memory.md R70, R80), the
engine's byte accesses (R84), reading and writing registers (10_state.md R20 to R45), acceptance, completion and
failure of a command (10_state.md R50, R52; 60_exceptions.md R200), free values (93 U1, U4 to U6) and RESET
(70_reset_and_hazards.md R230, R231). -/

namespace Sys2Proof.Machine

/-! ### System memory -/

/-- The entries lie at strictly rising addresses from `lo` on, below 2^32, and none equals the unlisted byte. -/
def Memory.wfFrom (lo : Nat) : Memory → Bool
  | [] => true
  | (a, b) :: m => lo ≤ a && a < addressSpace && b != Memory.unlisted && Memory.wfFrom (a + 1) m

/-- The canonical form of system memory. -/
def Memory.wf (m : Memory) : Bool := Memory.wfFrom 0 m

/-- The byte at a system address. -/
def Memory.readByte : Memory → Nat → Byte
  | [], _ => Memory.unlisted
  | (a, b) :: m, x =>
    if x = a then b
    else if x < a then Memory.unlisted
    else Memory.readByte m x

/-- Memory with the byte at a system address replaced, in canonical form. -/
def Memory.writeByte : Memory → Nat → Byte → Memory
  | [], x, v => if v = Memory.unlisted then [] else [(x, v)]
  | (a, b) :: m, x, v =>
    if x = a then (if v = Memory.unlisted then m else (a, v) :: m)
    else if x < a then (if v = Memory.unlisted then (a, b) :: m else (x, v) :: (a, b) :: m)
    else (a, b) :: Memory.writeByte m x v

/-- The `n` bytes at `a, a+1, ...`, index 0 at `a` (`MemRead` of R80). -/
def Memory.readBytes (m : Memory) (a n : Nat) : List Byte :=
  (List.range n).map fun i => m.readByte (a + i)

/-- Byte `i` of the sequence goes to address `a + i` (`MemWrite` of R80). -/
def Memory.writeBytes (m : Memory) (a : Nat) : List Byte → Memory
  | [] => m
  | v :: vs => Memory.writeBytes (m.writeByte a v) (a + 1) vs

/-- As `Memory.writeBytes`, but an address where `keep` holds keeps its byte. -/
def Memory.writeBytesExcept (keep : Nat → Bool) (m : Memory) (a : Nat) : List Byte → Memory
  | [] => m
  | v :: vs => Memory.writeBytesExcept keep (if keep a then m else m.writeByte a v) (a + 1) vs

/-! ### The engine's byte accesses -/

/-- One byte access of a cipher command, and how many blocks are chained when it is made. -/
structure Access where
  addr   : Nat
  kind   : AccessKind
  blocks : Nat
deriving DecidableEq, Repr

/-- The first access of the sequence that the platform refuses (R84, R206). -/
def Platform.firstRefused (p : Platform) (accesses : List Access) : Option Access :=
  accesses.find? fun x => !p.admits x.addr x.kind

/-! ### Free values -/

/-- The next `n` free bytes (93 U4 to U6). -/
def State.freeBytes (s : State) (n : Nat) : List Byte :=
  (List.range n).map fun i => Config.freeByte (s.draws + i)

/-- `x` is a byte of the source range (R33). -/
def State.inSource (s : State) (x : Nat) : Bool := s.srcAddr.toNat ≤ x && x < s.srcAddr.toNat + s.srcLen.toNat

/-- How many of the `wlen` destination bytes exist: those below 2^32 (R70). -/
def State.destinationSize (s : State) (wlen : Nat) : Nat := min wlen (addressSpace - s.dstAddr.toNat)

/-- Each byte of the destination range of `wlen` bytes becomes a free value, the source range is unchanged, and the
host's cached copies of the destination are stale (R210, R232, R96). DESIGN CHOICE: a byte of both ranges, which
only a RESET can meet, is unchanged, as a source byte. Log 15. DESIGN CHOICE: R96 and R238 item 4 speak of reads
after completion alone; the model also makes the copies stale after a RESET. Log 30. -/
def State.scrambleDestination (s : State) (wlen : Nat) : State :=
  { s with
    mem := s.mem.writeBytesExcept s.inSource s.dstAddr.toNat (s.freeBytes (s.destinationSize wlen))
    draws := s.draws + s.destinationSize wlen
    coherence := .engineWrote s.dstAddr.toNat (s.destinationSize wlen) :: s.coherence }

/-! ### Registers -/

/-- The value an aligned 32-bit read of a register returns (R20 to R45): `CMD`, the keys and every reserved
offset read 0. -/
def State.readReg (s : State) : Reg → Word
  | .id => 0x54454131
  | .cmd => 0
  | .status => s.statusWord
  | .errAddr => s.errAddr
  | .srcAddr => s.srcAddr
  | .srcLen => s.srcLen
  | .dstAddr => s.dstAddr
  | .dstCap => s.dstCap
  | .resultLen => s.resultLen
  | .resultOff => s.resultOff
  | .arg => s.arg
  | .dinLo => s.dinLo
  | .dinHi => s.dinHi
  | .doutLo => s.doutLo
  | .doutHi => s.doutHi
  | .key _ => 0
  | .fill i => s.fill[i]
  | .tbl i => s.tbl[i]
  | .reserved => 0

/-- A write to a register while the engine is IDLE stores the value in the RW and WO registers (R20, R33 to
R44); read-only and reserved offsets ignore it. `CMD` and `STATUS` are handled by `State.hostWriteReg`. -/
def State.storeReg (s : State) (v : Word) : Reg → State
  | .srcAddr => { s with srcAddr := v }
  | .srcLen => { s with srcLen := v }
  | .dstAddr => { s with dstAddr := v }
  | .dstCap => { s with dstCap := v }
  | .arg => { s with arg := v }
  | .dinLo => { s with dinLo := v }
  | .dinHi => { s with dinHi := v }
  | .key i => { s with key := s.key.set i v }
  | .fill i => { s with fill := s.fill.set i v }
  | .tbl i => { s with tbl := s.tbl.set i v }
  | .id | .cmd | .status | .errAddr | .resultLen | .resultOff | .doutLo | .doutHi | .reserved => s

/-! ### The command lifecycle -/

/-- Acceptance of the command word `w` (R50): in one step BUSY becomes 1, DONE, ERRCODE and LRANGE become 0, and
`w` is latched. `wait` is the number of host moves before the engine completes (log 2). -/
def State.accept (s : State) (w : Word) (wait : Nat) : State :=
  { s with engine := .run w wait, status := s.status.accept }

/-- Acceptance with the next entry of the schedule; after its end, 0 (log 2). -/
def State.acceptScheduled (s : State) (w : Word) : State :=
  { s.accept w (s.waits.headD 0) with waits := s.waits.tail }

/-- Successful completion (R52): ERRCODE 0, LRANGE as given, DONE 1, BUSY 0. -/
def State.complete (s : State) (lrange : Bool) : State :=
  { s with engine := .idle, status := s.status.complete 0 lrange }

/-- The six errors (60_exceptions.md R201 to R206). -/
inductive CommandError where
  | illegalOp
  | badLength
  | dstCapacity
  | addrRange
  | overlap
  | busError (addr : Nat)
deriving DecidableEq, Repr

/-- The error codes (R207). -/
def CommandError.code : CommandError → BitVec 4
  | .illegalOp => 1
  | .badLength => 2
  | .dstCapacity => 3
  | .addrRange => 4
  | .overlap => 5
  | .busError _ => 6

/-- What `ERR_ADDR` becomes when a command fails (R32, R200): only `BUS_ERROR` writes it. -/
def CommandError.errAddr (e : CommandError) (old : Word) : Word :=
  match e with
  | .busError a => BitVec.ofNat 32 a
  | .illegalOp | .badLength | .dstCapacity | .addrRange | .overlap => old

/-- `raise E(info)` (R200): the one way a command fails. It completes with ERRCODE = code(E), LRANGE 0, DONE 1 and
BUSY 0, writes ERR_ADDR for BUS_ERROR, and leaves every result and operand register (R211). No state is saved, no
handler runs and there is no return (R215, R216). -/
def State.raiseError (s : State) (e : CommandError) : State :=
  { s with
    engine := .idle
    status := s.status.complete e.code false
    errAddr := e.errAddr s.errAddr }

/-- A host write of `v` to a register (R20, R31, R50, R51). -/
def State.hostWriteReg (s : State) (r : Reg) (v : Word) : State :=
  match r with
  | .status => { s with status := s.status.hostWrite v }
  | .cmd => if s.busy then { s with status := { s.status with cmdLost := true } } else s.acceptScheduled v
  | .id | .errAddr | .srcAddr | .srcLen | .dstAddr | .dstCap | .resultLen | .resultOff | .arg | .dinLo | .dinHi
  | .doutLo | .doutHi | .key _ | .fill _ | .tbl _ | .reserved => if s.busy then s else s.storeReg v r

/-! ### RESET -/

/-- Every register, visible and hidden, takes its reset value and the engine enters IDLE (R230, R231). Memory, the
platform and the host's own position are not the engine's and stay. -/
def State.resetRegisters (s : State) : State :=
  { s with
    engine := .idle
    status := Status.reset
    errAddr := 0
    srcAddr := 0
    srcLen := 0
    dstAddr := 0
    dstCap := 0
    resultLen := 0
    resultOff := 0
    arg := 0
    dinLo := 0
    dinHi := 0
    doutLo := 0
    doutHi := 0
    key := Vector.replicate 4 0
    fill := Vector.replicate 3 0
    tbl := Vector.replicate 16 0
    seq := Sequencer.zero }

end Sys2Proof.Machine
end

