-- ==== Sys2Proof/Machine/Length.lean ====
section
/-! DEFINITION. The length functions and their commands (spec 41_length.md R135 to R142). -/

namespace Sys2Proof.Machine

/-- `fill(n)` (R135). -/
def fillOf (n : Nat) : Nat := 10 - (n + 1) % 8

/-- `ctlen(n)` (R136), an integer without truncation. -/
def ctlen (n : Nat) : Nat := fillOf n + n + 7

/-- `hdroff(b)` (R138). -/
def hdroff (b : Byte) : Nat := (b.extractLsb' 0 3).toNat + 3

/-- `ptlen(L, b)` (R139), an integer that may be negative. -/
def ptlen (len : Nat) (b : Byte) : Int := (len : Int) - 7 - (hdroff b : Int)

/-- Completion of a command with a length result: `RESULT_LEN` is its value modulo 2^32, `RESULT_OFF` the header
offset, and LRANGE says whether the value was out of range (R28, R37, R38, R52). -/
def State.completeLength (s : State) (len : Int) (off : Nat) : State :=
  { s with resultLen := BitVec.ofInt 32 len, resultOff := BitVec.ofNat 32 off }.complete (lengthOutOfRange len)

/-- `CTLEN` (R141). -/
def execCtlen (s : State) : Host.Outcome State Fault Refusal :=
  .next (s.completeLength (ctlen s.srcLen.toNat) (fillOf s.srcLen.toNat))

/-- `PTLEN` (R142). -/
def execPtlen (s : State) : Host.Outcome State Fault Refusal :=
  .next (s.completeLength (ptlen s.srcLen.toNat s.firstByte) (hdroff s.firstByte))

end Sys2Proof.Machine
end

