-- ==== Sys2Proof/Machine/Cipher.lean ====
section
/-! DEFINITION. The cipher functions: rounds and block transforms (spec 42_cipher_core.md R154 to R158), padding and
chaining (43_encrypt_decrypt.md R170 to R174). -/

namespace Sys2Proof.Machine

/-- The two 32-bit halves `(v0, v1)` of a block. -/
abbrev Halves := Word × Word

/-- A 64-bit word as halves: `v0 = x[63:32]`, `v1 = x[31:0]` (R154). PRESUMED: the spec marks this split general
knowledge, not in the source (93 G2). Log 4. -/
def splitHalves (x : DWord) : Halves := (x.extractLsb' 32 32, x.extractLsb' 0 32)

/-- `{v0, v1}` (R154). -/
def joinHalves (h : Halves) : DWord := h.1 ++ h.2

/-- The mixing term of a half-update: `(v + c) XOR ((v << 4) + a) XOR ((v >> 5) + b)` (R155). -/
def mix (v c a b : Word) : Word := (v + c) ^^^ ((v <<< 4) + a) ^^^ ((v >>> 5) + b)

/-- The forward round `FR` (R155): the second update uses the new `v0`. -/
def forwardRound (k : Vector Word 4) (c : Word) (h : Halves) : Halves :=
  let v0 := h.1 + mix h.2 c k[0] k[1]
  let v1 := h.2 + mix v0 c k[2] k[3]
  (v0, v1)

/-- The reverse round `RR` (R156): the second update uses the new `v1`. -/
def reverseRound (k : Vector Word 4) (c : Word) (h : Halves) : Halves :=
  let v1 := h.2 - mix h.1 c k[2] k[3]
  let v0 := h.1 - mix v1 c k[0] k[1]
  (v0, v1)

/-- The 16 forward rounds, constants in ascending order (R157). -/
def forwardRounds (t : Vector Word 16) (k : Vector Word 4) (h : Halves) : Halves :=
  t.toList.foldl (fun h c => forwardRound k c h) h

/-- The 16 reverse rounds, constants in descending order (R158). -/
def reverseRounds (t : Vector Word 16) (k : Vector Word 4) (h : Halves) : Halves :=
  t.toList.reverse.foldl (fun h c => reverseRound k c h) h

/-- `EncBlock(T, K, x)` (R157). -/
def encBlock (t : Vector Word 16) (k : Vector Word 4) (x : DWord) : DWord :=
  joinHalves (forwardRounds t k (splitHalves x))

/-- `DecBlock(T, K, x)` (R158). -/
def decBlock (t : Vector Word 16) (k : Vector Word 4) (x : DWord) : DWord :=
  joinHalves (reverseRounds t k (splitHalves x))

/-- Filler byte `rnd[j]` (R170): byte `j mod 4` of filler word `j div 4`. -/
def fillerByte (fill : Vector Word 3) (j : Nat) : Byte :=
  (fill.toList.getD (j / 4) 0).extractLsb' (8 * (j % 4)) 8

/-- Byte `j` of the padded image of `src` (R171). -/
def padByte (src : List Byte) (fill : Vector Word 3) (j : Nat) : Byte :=
  let f := fillOf src.length
  if j = 0 then 0xF8 ||| BitVec.ofNat 8 (f - 3)
  else if j < f then fillerByte fill j
  else if j < f + src.length then src.getD (j - f) 0
  else 0

/-- `Pad(src, F)` (R171). -/
def pad (src : List Byte) (fill : Vector Word 3) : List Byte :=
  (List.range (ctlen src.length)).map (padByte src fill)

/-- The hidden registers at the start of a cipher command: both accumulators 0 (R48). -/
def Sequencer.start (q : Sequencer) : Sequencer := { q with chA := 0, chB := 0 }

/-- Block `i` of encryption (R173): the bytes written, and the hidden registers after it. `RND` ends at 15, its
last value (R157). Log 10. -/
def encStep (t : Vector Word 16) (k : Vector Word 4) (o : ByteOrder) (i : Nat) (q : Sequencer) (b : List Byte) :
    Sequencer × List Byte :=
  let blk := loadBlock o b
  let holder := blk ^^^ q.chA
  let h := forwardRounds t k (splitHalves holder)
  let e := joinHalves h
  let out := e ^^^ q.chB
  ({ chA := out, chB := holder, blk := i, rnd := 15, v0 := h.1, v1 := h.2 }, storeBlock o out)

/-- Block `i` of decryption (R174): the bytes written, and the hidden registers after it. `RND` ends at 0, its
last value (R158). Log 10. -/
def decStep (t : Vector Word 16) (k : Vector Word 4) (o : ByteOrder) (i : Nat) (q : Sequencer) (b : List Byte) :
    Sequencer × List Byte :=
  let blk := loadBlock o b
  let h := reverseRounds t k (splitHalves (q.chA ^^^ blk))
  let chA := joinHalves h
  let out := chA ^^^ q.chB
  ({ chA := chA, chB := blk, blk := i, rnd := 0, v0 := h.1, v1 := h.2 }, storeBlock o out)

/-- The blocks of `bytes` in ascending order, from block `i` on for `count` blocks, each run by `f` (the loops of
R173 and R174). -/
def chainBlocks (f : Nat → Sequencer → List Byte → Sequencer × List Byte) :
    (count i : Nat) → Sequencer → List Byte → Sequencer × List Byte
  | 0, _, q, _ => (q, [])
  | count + 1, i, q, bytes =>
    let r := f i q (bytes.take 8)
    let rest := chainBlocks f count (i + 1) r.1 (bytes.drop 8)
    (rest.1, r.2 ++ rest.2)

/-- `EncChain(T, K, P, o)` (R173), with the hidden registers it leaves when `count` blocks are run from `q`. -/
def encChainFrom (t : Vector Word 16) (k : Vector Word 4) (o : ByteOrder) (count : Nat) (q : Sequencer)
    (p : List Byte) : Sequencer × List Byte :=
  chainBlocks (encStep t k o) count 0 q.start p

/-- `DecChain(T, K, C, o)` (R174), with the hidden registers it leaves when `count` blocks are run from `q`. -/
def decChainFrom (t : Vector Word 16) (k : Vector Word 4) (o : ByteOrder) (count : Nat) (q : Sequencer)
    (c : List Byte) : Sequencer × List Byte :=
  chainBlocks (decStep t k o) count 0 q.start c

/-- `EncChain(T, K, P, o)` (R173). -/
def encChain (t : Vector Word 16) (k : Vector Word 4) (p : List Byte) (o : ByteOrder) : List Byte :=
  (encChainFrom t k o (p.length / 8) Sequencer.zero p).2

/-- `DecChain(T, K, C, o)` (R174). -/
def decChain (t : Vector Word 16) (k : Vector Word 4) (c : List Byte) (o : ByteOrder) : List Byte :=
  (decChainFrom t k o (c.length / 8) Sequencer.zero c).2

end Sys2Proof.Machine
end

