-- ==== Sys2Proof/Machine/CipherOps.lean ====
section
/-! DEFINITION. What the cipher commands share: the start of a command (spec 10_state.md R48), the checks
(60_exceptions.md R202 to R205, R208), the order of the byte accesses (20_memory.md R81, R82) and the memory phase
with its bus errors (R84, R206, R210). -/

namespace Sys2Proof.Machine

/-- The start of a cipher command: `CH_A` and `CH_B` become 0 (R48). Log 11. -/
def State.startCipher (s : State) : State := { s with seq := s.seq.start }

/-- `Overlap(a, n, d, m)` (R205): the ranges share a byte. -/
def rangesOverlap (a n d m : Nat) : Bool := 0 < n && 0 < m && a < d + m && d < a + n

/-- The checks every cipher command makes on its buffers, in the order of R208: the first that applies of
DST_CAPACITY (R203), ADDR_RANGE (R204) and OVERLAP (R205), for a command that writes `wlen` bytes. -/
def State.bufferCheck (s : State) (wlen : Nat) : Option CommandError :=
  let n := s.srcLen.toNat
  let a := s.srcAddr.toNat
  let d := s.dstAddr.toNat
  if s.dstCap.toNat < wlen then some .dstCapacity
  else if addressSpace < a + n ∨ addressSpace < d + wlen then some .addrRange
  else if rangesOverlap a n d wlen then some .overlap
  else none

/-- The checks of an encryption (R176). -/
def State.encCheck (s : State) : Option CommandError := s.bufferCheck (ctlen s.srcLen.toNat)

/-- The checks of a decryption (R179): BAD_LENGTH (R202) first. -/
def State.decCheck (s : State) : Option CommandError :=
  let n := s.srcLen.toNat
  if n < 16 ∨ n % 8 ≠ 0 then some .badLength else s.bufferCheck n

/-- The reads of block `i` of an encryption (R81): the source bytes at offsets `j - f` for the padded indices `j`
of the block with `f ≤ j < f + n`. -/
def encReads (a n i : Nat) : List Access :=
  (List.range 8).filterMap fun k =>
    let j := 8 * i + k
    let f := fillOf n
    if f ≤ j ∧ j < f + n then some ⟨a + (j - f), .read, i⟩ else none

/-- The reads of block `i` of a decryption (R82). -/
def decReads (a i : Nat) : List Access := (List.range 8).map fun k => ⟨a + (8 * i + k), .read, i⟩

/-- The writes of block `i` of a cipher command (R81, R82), made when that block is chained. -/
def blockWrites (d i : Nat) : List Access := (List.range 8).map fun k => ⟨d + (8 * i + k), .write, i + 1⟩

/-- The byte accesses of an encryption in the architectural order (R81). -/
def encAccesses (a n d : Nat) : List Access :=
  (List.range (ctlen n / 8)).flatMap fun i => encReads a n i ++ blockWrites d i

/-- The byte accesses of a decryption in the architectural order (R82). -/
def decAccesses (a n d : Nat) : List Access :=
  (List.range (n / 8)).flatMap fun i => decReads a i ++ blockWrites d i

/-- The memory phase of a cipher command that writes `image` at `DST_ADDR`. If the platform refuses an access, the
command ends with BUS_ERROR at the first refused address and every destination byte is a free value (R206, R210).
Otherwise the whole image is written (R97). `seqAfter` gives the hidden registers when so many blocks are chained
(log 10, 11). -/
def State.memoryPhase (s : State) (accesses : List Access) (seqAfter : Nat → Sequencer) (image : List Byte)
    (wlen : Nat) (finish : State → State) : State :=
  match s.plat.firstRefused accesses with
  | some x => ({ s with seq := seqAfter x.blocks }.scrambleDestination wlen).raiseError (.busError x.addr)
  | none =>
    finish { s with
      mem := s.mem.writeBytes s.dstAddr.toNat image
      seq := seqAfter (wlen / 8)
      coherence := .engineWrote s.dstAddr.toNat wlen :: s.coherence }

end Sys2Proof.Machine
end

