-- ==== Sys2Proof/Machine/Decrypt.lean ====
section
/-! DEFINITION. Decryption and its commands (spec 43_encrypt_decrypt.md R179 to R182). -/

namespace Sys2Proof.Machine

/-- `Decrypt(tsel, o)` (R179): the checks, the read, the chaining, the write and the results, which come from the
first decrypted byte `D[0]` whatever it is (R182). -/
def State.decrypt (s₀ : State) (tsel : TableSelect) (o : ByteOrder) : State :=
  let s := s₀.startCipher
  let n := s.srcLen.toNat
  match s.decCheck with
  | some e => s.raiseError e
  | none =>
    let t := s.table tsel
    let c := s.mem.readBytes s.srcAddr.toNat n
    let image := decChain t s.key c o
    let first := image.headD 0
    s.memoryPhase (decAccesses s.srcAddr.toNat n s.dstAddr.toNat)
      (fun blocks => (decChainFrom t s.key o blocks s.seq c).1)
      image n
      (fun s => s.completeLength (ptlen n first) (hdroff first))

/-- `DECB` (R180): decrypt with the built-in table. -/
def execDecb (o : ByteOrder) (s : State) : Host.Outcome State Fault Refusal := .next (s.decrypt .builtin o)

/-- `DECC` (R181): decrypt with the custom table. -/
def execDecc (o : ByteOrder) (s : State) : Host.Outcome State Fault Refusal := .next (s.decrypt .custom o)

end Sys2Proof.Machine
end

