-- ==== Sys2Proof/Machine/Encrypt.lean ====
section
/-! DEFINITION. Encryption and its commands (spec 43_encrypt_decrypt.md R176 to R178). -/

namespace Sys2Proof.Machine

/-- The padded image an encryption reads its source into (R171, R176). -/
def State.encImage (s : State) : List Byte :=
  pad (s.mem.readBytes s.srcAddr.toNat s.srcLen.toNat) s.fill

/-- `Encrypt(tsel, o)` (R176): the checks, the read, the padding, the chaining, the write and the results. -/
def State.encrypt (s₀ : State) (tsel : TableSelect) (o : ByteOrder) : State :=
  let s := s₀.startCipher
  let n := s.srcLen.toNat
  match s.encCheck with
  | some e => s.raiseError e
  | none =>
    let t := s.table tsel
    let p := s.encImage
    s.memoryPhase (encAccesses s.srcAddr.toNat n s.dstAddr.toNat)
      (fun blocks => (encChainFrom t s.key o blocks s.seq p).1)
      (encChain t s.key p o) (ctlen n)
      (fun s => s.completeLength (ctlen n) (fillOf n))

/-- `ENCB` (R177): encrypt with the built-in table. -/
def execEncb (o : ByteOrder) (s : State) : Host.Outcome State Fault Refusal := .next (s.encrypt .builtin o)

/-- `ENCC` (R178): encrypt with the custom table. -/
def execEncc (o : ByteOrder) (s : State) : Host.Outcome State Fault Refusal := .next (s.encrypt .custom o)

end Sys2Proof.Machine
end

