-- ==== Sys2Proof/Machine/Normalizer.lean ====
section
/-! DEFINITION. The byte-order normalizer commands (spec 40_normalizer.md R122 to R124). -/

namespace Sys2Proof.Machine

/-- Completion of a `BSWAP*` command with the 64-bit result `r`: `DOUT` and STATUS (R41, R52). -/
def State.completeSwap (s : State) (r : DWord) : State :=
  { s with doutHi := r.extractLsb' 32 32, doutLo := r.extractLsb' 0 32 }.complete false

/-- `BSWAP16` (R122): the low 16 bits of `DIN`, swapped or kept, zero-extended. -/
def execBswap16 (o : ByteOrder) (s : State) : Host.Outcome State Fault Refusal :=
  .next (s.completeSwap ((inOrder o bswap16 (s.dinLo.extractLsb' 0 16)).setWidth 64))

/-- `BSWAP32` (R123): `DIN_LO`, swapped or kept, zero-extended. -/
def execBswap32 (o : ByteOrder) (s : State) : Host.Outcome State Fault Refusal :=
  .next (s.completeSwap ((inOrder o bswap32 s.dinLo).setWidth 64))

/-- `BSWAP64` (R124): all of `DIN`, swapped or kept. -/
def execBswap64 (o : ByteOrder) (s : State) : Host.Outcome State Fault Refusal :=
  .next (s.completeSwap (inOrder o bswap64 s.din))

end Sys2Proof.Machine
end

