-- ==== Sys2Proof/Machine/Dispatch.lean ====
section
/-! DEFINITION. The meaning of each command: running the latched command to its completion (spec 10_state.md R50,
R52; 20_memory.md R97). -/

namespace Sys2Proof.Machine

def exec (i : Instr) (s : State) : Host.Outcome State Fault Refusal :=
  match i with
  | .bswap16 o => Sys2Proof.Machine.execBswap16 o s
  | .bswap32 o => Sys2Proof.Machine.execBswap32 o s
  | .bswap64 o => Sys2Proof.Machine.execBswap64 o s
  | .ctlen => Sys2Proof.Machine.execCtlen s
  | .ptlen => Sys2Proof.Machine.execPtlen s
  | .encb o => Sys2Proof.Machine.execEncb o s
  | .encc o => Sys2Proof.Machine.execEncc o s
  | .decb o => Sys2Proof.Machine.execDecb o s
  | .decc o => Sys2Proof.Machine.execDecc o s

end Sys2Proof.Machine
end

