-- ==== Sys2Proof/WellFormed.lean ====
section
/-! DEFINITION. Which fields make a legal command word (spec 30_encoding.md R105, R107), and which host programs
the spec's notation allows (R110, 20_memory.md R70). A term of `Instr` needs no check: its constructors admit
exactly the 16 legal commands of R102. -/

namespace Sys2Proof

/-- `OP` names an operation (R107, first cause): neither 0x0 nor 0x8 to 0xF. -/
def CommandFields.opNamed (f : CommandFields) : Bool := f.op != 0 && f.op.ult 8

/-- `RSV` is 0 (R105; R107, second cause). -/
def CommandFields.rsvClear (f : CommandFields) : Bool := f.rsv == 0

/-- `TSEL = 1` only with an operation that selects a table (R103; R107, third cause). -/
def CommandFields.tselAllowed (f : CommandFields) : Bool := !f.tsel || f.op == 6 || f.op == 7

/-- `ORD = 1` only with an operation that has a byte order (R104; R107, fourth cause). -/
def CommandFields.ordAllowed (f : CommandFields) : Bool := !f.ord || !(f.op == 4 || f.op == 5)

/-- The fields form one of the legal command words: no cause of R107 holds. -/
def CommandFields.legal (f : CommandFields) : Bool :=
  f.opNamed && f.rsvClear && f.tselAllowed && f.ordAllowed

/-- Every term of `Instr` is a legal command: its operands are of types that admit no other value (R102). -/
def Instr.wellFormed : Instr → Bool
  | .bswap16 _ | .bswap32 _ | .bswap64 _ => true
  | .ctlen | .ptlen => true
  | .encb _ | .encc _ | .decb _ | .decc _ => true

/-- A range of `n` bytes at `addr` lies in the system address space (R70). -/
def rangeExists (addr : Word) (n : Nat) : Bool := addr.toNat + n ≤ addressSpace

/-- A name some read of the list gives (R110). -/
def namedBy (ms : List Move) (name : Nat) : Bool :=
  ms.any fun m => match m with
    | .rd _ _ x => x == name
    | .memr _ _ x => x == name
    | .wr _ _ _ | .memw _ _ | .bnz _ _ _ | .invalidate _ _ | .assertReset => false

/-- One move of a program is well formed: its memory range exists, a branch goes to a label of the program (or
to its end), and the name it tests is given by some read (R110, R70). -/
def Move.wellFormed (ms : List Move) : Move → Bool
  | .wr _ _ _ | .rd _ _ _ | .assertReset => true
  | .memw a bs => rangeExists a bs.length
  | .memr a n _ => rangeExists a n
  | .bnz x _ t => namedBy ms x && t ≤ ms.length
  | .invalidate a n => rangeExists a n

/-- Every move of the program is well formed. -/
def programWellFormed (ms : List Move) : Bool := ms.all (Move.wellFormed ms)

end Sys2Proof
end

