-- ==== Sys2Proof/Decode.lean ====
section
/-! DEFINITION. Decoding of command words, total and rejecting by name (spec 30_encoding.md R109), and the encoder
written from the same table (R102). -/

namespace Sys2Proof

/-- Why a command word is illegal (R107). -/
inductive DecodeError where
  | reservedBits     -- RSV ≠ 0
  | reservedOp       -- OP is 0x0 or 0x8 to 0xF
  | tselNotAllowed   -- TSEL = 1 with an OP that selects no table
  | ordNotAllowed    -- ORD = 1 with an OP that has no byte order
deriving DecidableEq, Repr

/-- The fields of a command word (R101): OP 3:0, TSEL 4, ORD 5, RSV 31:6. -/
def CommandFields.ofWord (w : Word) : CommandFields where
  op   := w.extractLsb' 0 4
  tsel := w.getLsbD 4
  ord  := w.getLsbD 5
  rsv  := w.extractLsb' 6 26

/-- The command word with the given fields (R101). -/
def CommandFields.toWord (f : CommandFields) : Word :=
  f.rsv ++ BitVec.ofBool f.ord ++ BitVec.ofBool f.tsel ++ f.op

/-- `ORD` as a byte order (R104). -/
def ByteOrder.ofOrd (ord : Bool) : ByteOrder := if ord then .native else .normalizing

/-- A byte order as `ORD` (R104). -/
def ByteOrder.toOrd : ByteOrder → Bool
  | .normalizing => false
  | .native => true

/-- An operation that selects no table: `TSEL` must be 0 (R103). -/
def withoutTable (tsel : Bool) (i : Instr) : Except DecodeError Instr :=
  if tsel then .error .tselNotAllowed else .ok i

/-- An operation that has no byte order: `ORD` must be 0 (R104). -/
def withoutOrder (ord : Bool) (i : Instr) : Except DecodeError Instr :=
  if ord then .error .ordNotAllowed else .ok i

/-- `Decode(w)` of R109 on the fields of a word. -/
def decodeFields (f : CommandFields) : Except DecodeError Instr :=
  let o := ByteOrder.ofOrd f.ord
  if f.rsv ≠ 0 then .error .reservedBits else
    match f.op.toNat with
    | 0x1 => withoutTable f.tsel (.bswap16 o)
    | 0x2 => withoutTable f.tsel (.bswap32 o)
    | 0x3 => withoutTable f.tsel (.bswap64 o)
    | 0x4 => if f.tsel then .error .tselNotAllowed else withoutOrder f.ord .ctlen
    | 0x5 => if f.tsel then .error .tselNotAllowed else withoutOrder f.ord .ptlen
    | 0x6 => .ok (if f.tsel then .encc o else .encb o)
    | 0x7 => .ok (if f.tsel then .decc o else .decb o)
    | _ => .error .reservedOp

/-- Decoding of a command word (R109): one of the 16 legal commands, or the reason it is illegal. -/
def decode (w : Word) : Except DecodeError Instr := decodeFields (CommandFields.ofWord w)

/-- The fields of a command's word, from the table of R102. -/
def encodeFields : Instr → CommandFields
  | .bswap16 o => ⟨0x1, false, o.toOrd, 0⟩
  | .bswap32 o => ⟨0x2, false, o.toOrd, 0⟩
  | .bswap64 o => ⟨0x3, false, o.toOrd, 0⟩
  | .ctlen => ⟨0x4, false, false, 0⟩
  | .ptlen => ⟨0x5, false, false, 0⟩
  | .encb o => ⟨0x6, false, o.toOrd, 0⟩
  | .encc o => ⟨0x6, true, o.toOrd, 0⟩
  | .decb o => ⟨0x7, false, o.toOrd, 0⟩
  | .decc o => ⟨0x7, true, o.toOrd, 0⟩

/-- The command word of a command (R101, R102). -/
def encode (i : Instr) : Word := (encodeFields i).toWord

/-- The command word whose bits are `w`, of which the first `nbits` are given and the rest are 0. -/
def commandWordOf (nbits w : Nat) : Word := BitVec.ofNat 32 (w % 2 ^ nbits)

/-- What the decoder reads from an instruction whose bits are `w` (bit 0 the least significant of the command
word, R101). A command is one 32-bit word written to `CMD` (R100), so no byte order enters. -/
def decodeTableWord (nbits w : Nat) : Option Instr :=
  match decode (commandWordOf nbits w) with
  | .ok i => some i
  | .error _ => none

end Sys2Proof
end

