-- ==== Sys2Proof/Machine/HostMoves.lean ====
section
/-! DEFINITION. The moves of the host and the platform (spec 30_encoding.md R110, R111; 10_state.md R20, R21, R51;
20_memory.md R93, R96; 70_reset_and_hazards.md R230, R232, R238, R243). -/

namespace Sys2Proof.Machine

/-! ### The running command -/

/-- The legal command that runs, if one does. -/
def State.runningCommand (s : State) : Option Instr :=
  match s.engine with
  | .idle => none
  | .run w _ =>
    match decode w with
    | .ok i => some i
    | .error _ => none

/-- The write length `wlen` of a cipher command (R204), or none for a command without buffers. -/
def State.writeLength (s : State) : Instr → Option Nat
  | .bswap16 _ | .bswap32 _ | .bswap64 _ => none
  | .ctlen | .ptlen => none
  | .encb _ | .encc _ => some (ctlen s.srcLen.toNat)
  | .decb _ | .decc _ => some s.srcLen.toNat

/-- The write length of the cipher command that runs, if one does. -/
def State.runningWriteLength (s : State) : Option Nat := s.runningCommand.bind s.writeLength

/-- `x` is a byte of the destination range of the running cipher command (R93, R238). Log 23. -/
def State.inRunningDst (s : State) (x : Nat) : Bool :=
  match s.runningWriteLength with
  | none => false
  | some wlen => s.dstAddr.toNat ≤ x && x < s.dstAddr.toNat + wlen

/-- `x` is a byte of the source range of the running cipher command (R238). Log 23. -/
def State.inRunningSrc (s : State) (x : Nat) : Bool :=
  match s.runningWriteLength with
  | none => false
  | some _ => s.inSource x

/-! ### Register accesses -/

/-- A host write at a window offset: an undefined access has no effect (R21). DESIGN CHOICE: it reaches the register at
its offset also where `ENGINE_BASE + off` passes 2^32-1. Log 31. -/
def State.hostWrite (s : State) (off : BitVec 12) (width : Width) (v : Word) : State :=
  if accessDefined s.plat off width then s.hostWriteReg (regAt off.toNat) v else s

/-- The value of a host read at a window offset, a free value if the access is undefined (R21, 93 U1). DESIGN CHOICE:
the spec does not say how wide the unspecified value of such a read is; the model names one 32-bit word for every
width. Log 27. DESIGN CHOICE: it reads the register at its offset also where `ENGINE_BASE + off` passes 2^32-1. Log
31. -/
def State.hostReadValue (s : State) (off : BitVec 12) (width : Width) : Word :=
  if accessDefined s.plat off width then s.readReg (regAt off.toNat) else Config.freeWord s.draws

/-- A host read at a window offset names its value and changes no register (R21, R86). -/
def State.hostRead (s : State) (off : BitVec 12) (width : Width) (name : Nat) : State :=
  { s with
    names := (name, .word (s.hostReadValue off width)) :: s.names
    draws := if accessDefined s.plat off width then s.draws else s.draws + 1 }

/-! ### Buffer accesses -/

/-- The byte a host load sees at index `i` of its range: a free value in the register window (R21, R71) and in the
running command's destination (R93), else system memory. DESIGN CHOICE: of a byte in both ranges of the running
command R93 says both that it is a draw and that it is the memory's value; the model gives the draw. Log 29. -/
def State.hostLoadByte (s : State) (addr i : Nat) : Byte :=
  if s.plat.inWindow (addr + i) || s.inRunningDst (addr + i) then Config.freeByte (s.draws + i)
  else s.mem.readByte (addr + i)

/-- The event is about the byte at `x`. -/
def CoherenceEvent.covers (x : Nat) : CoherenceEvent → Bool
  | .engineWrote a n | .invalidated a n => a ≤ x && x < a + n

/-- The host's cached copy of the byte at `x` is stale (R96): the platform is not coherent, and the newest event
about the byte is the engine's write. Log 13. -/
def State.stale (s : State) (x : Nat) : Bool :=
  !s.plat.dmaCoherent &&
    match s.coherence.find? (CoherenceEvent.covers x) with
    | some (.engineWrote _ _) => true
    | some (.invalidated _ _) | none => false

/-- The host may load the byte at `x` (R238 items 3, 4): it is in the window or the running destination, where it
sees a free value, or it is not stale. -/
def State.loadAllowed (s : State) (x : Nat) : Bool :=
  s.plat.inWindow x || s.inRunningDst x || !s.stale x

/-- The host may store to the byte at `x` (R238 item 2): it is in the window, or in neither range of the running
command. -/
def State.storeAllowed (s : State) (x : Nat) : Bool :=
  s.plat.inWindow x || !(s.inRunningDst x || s.inRunningSrc x)

/-- A host load of `n` bytes (R110 `MEMR`). -/
def State.hostLoad (s : State) (addr : Word) (n name : Nat) : Host.Outcome State Fault Refusal :=
  if !rangeExists addr n then .fault .noSuchAddress
  else if (List.range n).all fun i => s.loadAllowed (addr.toNat + i) then
    .next { s with
      names := (name, .bytes ((List.range n).map (s.hostLoadByte addr.toNat))) :: s.names
      draws := s.draws + n }
  else .refused .hostDuty

/-- A host store of bytes, made visible to the engine (R110 `MEMW`). Bytes in the register window never reach memory
(R71), and as accesses of another width they have no effect there (R21). Log 18. -/
def State.hostStore (s : State) (addr : Word) (bytes : List Byte) : Host.Outcome State Fault Refusal :=
  if !rangeExists addr bytes.length then .fault .noSuchAddress
  else if (List.range bytes.length).all fun i => s.storeAllowed (addr.toNat + i) then
    .next { s with mem := s.mem.writeBytesExcept s.plat.inWindow addr.toNat bytes }
  else .refused .hostDuty

/-! ### RESET -/

/-- What RESET leaves of the running command's memory effect (R232): each byte of its destination range is a free
value, whatever the command would have reported. Log 15. -/
def State.abandon (s : State) : State :=
  match s.runningWriteLength with
  | none => s
  | some wlen => s.scrambleDestination wlen

/-- The platform asserts RESET (R230, R232). -/
def State.platformReset (s : State) : State := s.abandon.resetRegisters

/-! ### Host programs -/

/-- The word a name stands for, if a read named one (R110). -/
def State.namedWord (s : State) (name : Nat) : Option Word :=
  match s.names.find? fun e => e.1 == name with
  | some (_, .word w) => some w
  | some (_, .bytes _) | none => none

/-- `BNZ` (R110): the next move is the target if the named value AND the mask is not 0. -/
def State.branch (s : State) (name : Nat) (mask : Word) (target : Nat) : Host.Outcome State Fault Refusal :=
  match s.namedWord name with
  | some v => .next (if v &&& mask ≠ 0 then { s with hpc := target } else s)
  | none => .refused .noSuchName

/-- The effect of one move, after the host's position has passed it. -/
def State.runMove (s : State) (m : Move) : Host.Outcome State Fault Refusal :=
  match m with
  | .wr off width v => .next (s.hostWrite off width v)
  | .rd off width name => .next (s.hostRead off width name)
  | .memw addr bytes => s.hostStore addr bytes
  | .memr addr n name => s.hostLoad addr n name
  | .bnz name mask target => s.branch name mask target
  | .invalidate addr n => .next { s with coherence := .invalidated addr.toNat n :: s.coherence }
  | .assertReset => .next s.platformReset

/-- The next move of the host or the platform; at the end of the list there is none, and nothing changes (R224,
R233, R242). -/
def State.hostTurn (s : State) : Host.Outcome State Fault Refusal :=
  match s.prog[s.hpc]? with
  | none => .next s
  | some m => { s with hpc := s.hpc + 1 }.runMove m

/-! ### Named statements and pseudo-instructions -/

/-- `WR <REG>, <imm32>` (R110). -/
def moveWr (r : Reg) (v : Word) : Move := .wr (regOffset r) .w32 v

/-- `RD <REG> -> <name>` (R110). -/
def moveRd (r : Reg) (name : Nat) : Move := .rd (regOffset r) .w32 name

/-- `CMD <MNEMONIC>[.NAT]` (R111). -/
def moveCmd (i : Instr) : Move := moveWr .cmd (encode i)

/-- `WAIT` (R111), standing at index `here`: read STATUS and loop while BUSY = 1. -/
def movesWait (here name : Nat) : List Move := [moveRd .status name, .bnz name 0x1 here]

/-- `WR64 DIN, <imm64>` (R111). -/
def movesWr64 (v : DWord) : List Move :=
  [moveWr .dinLo (v.extractLsb' 0 32), moveWr .dinHi (v.extractLsb' 32 32)]

/-- `WRKEY` (R111). -/
def movesWrKey (k : Vector Word 4) : List Move := (List.finRange 4).map fun i => moveWr (.key i) k[i]

/-- `WRFILL` (R111). -/
def movesWrFill (f : Vector Word 3) : List Move := (List.finRange 3).map fun i => moveWr (.fill i) f[i]

/-- `WRTBL` (R111). -/
def movesWrTbl (t : Vector Word 16) : List Move := (List.finRange 16).map fun i => moveWr (.tbl i) t[i]

end Sys2Proof.Machine
end

