-- ==== Sys2Proof/Machine/Step.lean ====
section
/-! DEFINITION. One step of the machine: a move of the host or the platform, or the engine running the latched
command to its completion (spec 00_scope.md R2; 10_state.md R50 to R53; 20_memory.md R97). -/

namespace Sys2Proof.Machine

/-- The engine runs the latched word to completion: its command, or ILLEGAL_OP for an illegal word (R107, R201). -/
def engineTurn (w : Word) (s : State) : Host.Outcome State Fault Refusal :=
  match decode w with
  | .ok i => exec i s
  | .error _ => .next (s.raiseError .illegalOp)

/-- One step. While a command runs, the host moves as often as its wait count says and then the engine completes;
in IDLE only the host moves (R53, R244; log 1, 2). -/
def step (s : State) : Host.Outcome State Fault Refusal :=
  match s.engine with
  | .idle => s.hostTurn
  | .run w 0 => engineTurn w s
  | .run w (k + 1) => { s with engine := .run w k }.hostTurn

/-- The state in which the command word is accepted and latched, and the very next step runs it (R50; log 19). -/
def State.withFetchWord (s : State) (nbits w : Nat) : State := s.accept (commandWordOf nbits w) 0

end Sys2Proof.Machine
end

