-- ==== Sys2Proof/Safety.lean ====
section
/-! DEFINITION. What the statements about TEA-CORE speak of: the invariant of the machine, what one state keeps of
another, how a command has ended, and when a cipher command or a host move can run. -/

namespace Sys2Proof.Machine

/-- What every step keeps: memory is canonical, nothing but a completion shows in STATUS (R26, R50, R236), the
error code is one the table has (R207), LRANGE is no failure (R28), and RESULT_OFF is its reset value or a header
offset (R38). -/
structure State.Inv (s : State) : Prop where
  memCanonical : s.mem.wf = true
  busyNotDone : s.busy = true → s.status.done = false
  busyNoCode : s.busy = true → s.status.errCode = 0
  busyNoRange : s.busy = true → s.status.lrange = false
  codeProduced : s.status.errCode.toNat ≤ 6
  rangeNoError : s.status.lrange = true → s.status.errCode = 0
  offsetLegal : s.resultOff = 0 ∨ (3 ≤ s.resultOff.toNat ∧ s.resultOff.toNat ≤ 10)

/-! ### What a state keeps of another -/

/-- `t` has the operand registers of `s` (R54, R211). -/
def SameOperands (s t : State) : Prop :=
  t.srcAddr = s.srcAddr ∧ t.srcLen = s.srcLen ∧ t.dstAddr = s.dstAddr ∧ t.dstCap = s.dstCap ∧ t.arg = s.arg ∧
    t.dinLo = s.dinLo ∧ t.dinHi = s.dinHi ∧ t.key = s.key ∧ t.fill = s.fill ∧ t.tbl = s.tbl

/-- `t` has the length results of `s` (R37, R38). -/
def SameLengths (s t : State) : Prop := t.resultLen = s.resultLen ∧ t.resultOff = s.resultOff

/-- `t` has the normalizer result of `s` (R41). -/
def SameDout (s t : State) : Prop := t.doutLo = s.doutLo ∧ t.doutHi = s.doutHi

/-- Every byte of memory reads in `t` as in `s`. -/
def SameMemory (s t : State) : Prop := ∀ x, t.mem.readByte x = s.mem.readByte x

/-- The platform, the schedule and the host are in `t` as in `s`. -/
def SameOutside (s t : State) : Prop :=
  t.plat = s.plat ∧ t.waits = s.waits ∧ t.prog = s.prog ∧ t.hpc = s.hpc ∧ t.names = s.names

/-- Nothing of the engine but its lifecycle and STATUS differs: operands, results, ERR_ADDR, hidden registers,
memory, free values and coherence. -/
def SameEngineData (s t : State) : Prop :=
  SameOperands s t ∧ SameLengths s t ∧ SameDout s t ∧ t.errAddr = s.errAddr ∧ t.seq = s.seq ∧ t.mem = s.mem ∧
    t.draws = s.draws ∧ t.coherence = s.coherence

/-- `t` is the state after the completion of a command of `s` (R52): IDLE, DONE, the error code and the
length-range indicator, and CMDLOST as it was (R29). -/
def CompletedWith (s t : State) (code : Nat) (lrange : Bool) : Prop :=
  t.engine = .idle ∧ t.status.done = true ∧ t.status.errCode.toNat = code ∧ t.status.lrange = lrange ∧
    t.status.cmdLost = s.status.cmdLost

/-- A command of `s` failed into `t` (R200, R211): every result and operand register is as before. -/
def FailedWith (s t : State) (code : Nat) : Prop :=
  CompletedWith s t code false ∧ SameOperands s t ∧ SameLengths s t ∧ SameDout s t ∧ SameOutside s t

/-- A command of `s` failed into `t` with a code from 1 to 5 (R209, R211): it also leaves ERR_ADDR and memory. -/
def FailedPrecisely (s t : State) (code : Nat) : Prop :=
  FailedWith s t code ∧ t.errAddr = s.errAddr ∧ t.mem = s.mem ∧ t.draws = s.draws ∧ t.coherence = s.coherence

/-- `t` differs from `s` in the normalizer result, STATUS and the lifecycle alone (R54). -/
def SameButDout (s t : State) : Prop :=
  SameOperands s t ∧ SameLengths s t ∧ SameOutside s t ∧ t.errAddr = s.errAddr ∧ t.seq = s.seq ∧
    SameMemory s t ∧ t.mem = s.mem ∧ t.draws = s.draws ∧ t.coherence = s.coherence

/-- `t` differs from `s` in the length results, STATUS and the lifecycle alone (R54). -/
def SameButLengths (s t : State) : Prop :=
  SameOperands s t ∧ SameDout s t ∧ SameOutside s t ∧ t.errAddr = s.errAddr ∧ t.seq = s.seq ∧
    SameMemory s t ∧ t.mem = s.mem ∧ t.draws = s.draws ∧ t.coherence = s.coherence

/-! ### When things can run -/

/-- The registers whose access is RW (R20): a write stores the value and a read returns it. -/
def storesAndReads : Reg → Bool
  | .srcAddr | .srcLen | .dstAddr | .dstCap | .arg | .dinLo | .dinHi | .fill _ | .tbl _ => true
  | .id | .cmd | .status | .errAddr | .resultLen | .resultOff | .doutLo | .doutHi | .key _ | .reserved => false

/-- The length of the ciphertext of `n` bytes, by the identity of R137. -/
def cipherLength (n : Nat) : Nat := 8 * ((n + 1) / 8) + 16

/-- The buffers pass every check for a command that writes `wlen` bytes (R203 to R205). -/
def BuffersFit (s : State) (wlen : Nat) : Prop :=
  wlen ≤ s.dstCap.toNat ∧ s.srcAddr.toNat + s.srcLen.toNat ≤ 4294967296 ∧
    s.dstAddr.toNat + wlen ≤ 4294967296 ∧
    (s.srcLen.toNat = 0 ∨ s.dstAddr.toNat + wlen ≤ s.srcAddr.toNat ∨
      s.srcAddr.toNat + s.srcLen.toNat ≤ s.dstAddr.toNat)

/-- The platform admits every access of a command that writes `wlen` bytes (R84). -/
def BusAdmits (s : State) (wlen : Nat) : Prop :=
  (∀ k < s.srcLen.toNat, s.plat.admits (s.srcAddr.toNat + k) .read = true) ∧
    ∀ m < wlen, s.plat.admits (s.dstAddr.toNat + m) .write = true

/-- The source length of a decryption is legal (R202). -/
def CipherLengthLegal (n : Nat) : Prop := 16 ≤ n ∧ n % 8 = 0

/-- It is the host's turn, and its next move is `m`. -/
def HostTurn (s : State) (m : Move) : Prop :=
  (∀ w, s.engine ≠ .run w 0) ∧ s.prog[s.hpc]? = some m

/-- The host's next move writes `v` at a window offset by a defined access: 32 bits at an aligned address (R21). The
address may pass 2^32-1, which is the model's choice (log 31). -/
def HostWrites (s : State) (off : BitVec 12) (v : Word) : Prop :=
  HostTurn s (.wr off .w32 v) ∧ s.plat.alignedAt off = true

/-- The host's next move reads a window offset by a defined access and names the value `x` (R21; log 31 as above). -/
def HostReads (s : State) (off : BitVec 12) (x : Nat) : Prop :=
  HostTurn s (.rd off .w32 x) ∧ s.plat.alignedAt off = true

/-- The state after a host turn's share in the engine's wait: one move fewer is left before completion. -/
def State.ticked (s : State) : State :=
  match s.engine with
  | .idle => s
  | .run _ 0 => s
  | .run w (k + 1) => { s with engine := .run w k }

/-- The state after the host's position has passed its next move. -/
def State.afterMove (s : State) : State := { s.ticked with hpc := s.hpc + 1 }

/-- A defined read of a window offset names `v`, and nothing else but the host's own position (and the wait of a running
command) changes (R20, R86). -/
def ReadNames (s : State) (x : Nat) (off : BitVec 12) (v : Word) : Prop :=
  HostReads s off x → step s = .next { s.afterMove with names := (x, .word v) :: s.names }

/-- The host program has ended (R242): no move is left and no command runs. -/
def State.programEnded (s : State) : Prop := s.prog.length ≤ s.hpc ∧ s.busy = false

/-- `k` steps from `s` end in a next state: no fault and no refusal on the way. -/
def SafeRun (k : Nat) (s : State) : Prop := ∃ t, Sys2Proof.core.run k s = .next t

end Sys2Proof.Machine
end

