-- ==== Sys2Proof/Certificates/Slice0/Obligations.lean ====
section
/-! DEFINITION. The statements about TEA-CORE for the provers. Each docstring names the rules of spec/ it
formalises; the predicates are those of Safety. -/

open Sys2Proof Sys2Proof.Machine

/-! ### Command words -/

/-- R102, R109: a word decodes to a command exactly when it is that command's word. -/
def Obligations.DecodeReadsExactlyWhatEncodeWrites : Prop :=
  ∀ (w : Word) (i : Instr), decode w = .ok i ↔ w = encode i

/-- R107: a word is illegal exactly when one of the four causes holds of its bits, and exactly 16 words are legal. -/
def Obligations.IllegalWordsAreTheFourCauses : Prop :=
  (∀ w : Word, (∃ e, decode w = .error e) ↔
    (w.toNat % 16 = 0 ∨ 8 ≤ w.toNat % 16) ∨
    w.toNat / 64 ≠ 0 ∨
    (w.toNat / 16 % 2 = 1 ∧ w.toNat % 16 ≠ 6 ∧ w.toNat % 16 ≠ 7) ∨
    (w.toNat / 32 % 2 = 1 ∧ (w.toNat % 16 = 4 ∨ w.toNat % 16 = 5))) ∧
  ∃ legal : List Word, legal.Nodup ∧ legal.length = 16 ∧ ∀ w, w ∈ legal ↔ ∃ i, decode w = .ok i

/-- R102: the 16 legal command words stand for the commands of the table, and the words of the same table that it
calls illegal stand for none. -/
def Obligations.TableWordsDecodeToTheirCommands : Prop :=
  decodeTableWord 32 0x00000001 = some (.bswap16 .normalizing) ∧
  decodeTableWord 32 0x00000021 = some (.bswap16 .native) ∧
  decodeTableWord 32 0x00000002 = some (.bswap32 .normalizing) ∧
  decodeTableWord 32 0x00000022 = some (.bswap32 .native) ∧
  decodeTableWord 32 0x00000003 = some (.bswap64 .normalizing) ∧
  decodeTableWord 32 0x00000023 = some (.bswap64 .native) ∧
  decodeTableWord 32 0x00000004 = some .ctlen ∧
  decodeTableWord 32 0x00000024 = none ∧
  decodeTableWord 32 0x00000005 = some .ptlen ∧
  decodeTableWord 32 0x00000025 = none ∧
  decodeTableWord 32 0x00000006 = some (.encb .normalizing) ∧
  decodeTableWord 32 0x00000026 = some (.encb .native) ∧
  decodeTableWord 32 0x00000016 = some (.encc .normalizing) ∧
  decodeTableWord 32 0x00000036 = some (.encc .native) ∧
  decodeTableWord 32 0x00000007 = some (.decb .normalizing) ∧
  decodeTableWord 32 0x00000027 = some (.decb .native) ∧
  decodeTableWord 32 0x00000017 = some (.decc .normalizing) ∧
  decodeTableWord 32 0x00000037 = some (.decc .native)

/-- R201: an accepted illegal word completes with ILLEGAL_OP, reads no operand (nothing but STATUS and the
lifecycle differs) and makes no memory access. -/
def Obligations.IllegalWordCompletesWithIllegalOp : Prop :=
  ∀ (s : State) (w : Word) (e : DecodeError), s.engine = .run w 0 → decode w = .error e →
    ∃ t, step s = .next t ∧ CompletedWith s t 1 false ∧ SameEngineData s t ∧ SameOutside s t

/-- The engine's step runs the latched word's command, a waiting engine gives the host its turn, and the word of a
command that is accepted with no wait is run by the very next step (R50, R97; the wait is the model's, log 2). -/
def Obligations.StepRunsTheLatchedCommand : Prop :=
  (∀ (s : State) (w : Word) (i : Instr), s.engine = .run w 0 → decode w = .ok i → step s = exec i s) ∧
  (∀ (s : State) (m : Move), HostTurn s m → step s = s.afterMove.runMove m) ∧
  (∀ (s : State) (i : Instr),
    step (s.withFetchWord 32 (encode i).toNat) = exec i (s.withFetchWord 32 (encode i).toNat))

/-! ### The command lifecycle -/

/-- R50: a CMD write in IDLE latches the word, sets BUSY and clears DONE, ERRCODE and LRANGE in one step that
changes no other register, and while the command runs no step but a RESET changes an operand register. -/
def Obligations.CmdWriteInIdleIsAccepted : Prop :=
  (∀ (s : State) (v : Word), s.engine = .idle → HostWrites s 0x004 v →
    ∃ t k, step s = .next t ∧ t.engine = .run v k ∧ t.busy = true ∧ t.status.done = false ∧
      t.status.errCode = 0 ∧ t.status.lrange = false ∧ t.status.cmdLost = s.status.cmdLost ∧
      SameEngineData s t ∧ t.hpc = s.hpc + 1) ∧
  ∀ s t : State, s.busy = true → s.prog[s.hpc]? ≠ some .assertReset → step s = .next t → SameOperands s t

/-- R51: while a command runs, a write to CMD only sets CMDLOST, a write to STATUS acts as R31 says, and a write to
any other register is ignored. -/
def Obligations.WritesWhileBusyTouchStatusAlone : Prop :=
  ∀ (s : State) (w v : Word) (k : Nat) (off : BitVec 12), s.engine = .run w (k + 1) →
    HostWrites s off v →
    ∃ t, step s = .next t ∧ t.engine = .run w k ∧ SameEngineData s t ∧
      t.status.errCode = s.status.errCode ∧ t.status.lrange = s.status.lrange ∧
      (off = 0x004 → t.status.cmdLost = true ∧ t.status.done = s.status.done) ∧
      (off = 0x008 → t.status.done = (s.status.done && !v.getLsbD 1) ∧
        t.status.cmdLost = (s.status.cmdLost && !v.getLsbD 4)) ∧
      (off ≠ 0x004 → off ≠ 0x008 → t.status = s.status)

/-- R31: a STATUS write clears DONE if bit 1 is 1 and CMDLOST if bit 4 is 1, ignores every other bit, and is
accepted in IDLE and in RUN; a STATUS read changes no register. -/
def Obligations.StatusWriteClearsDoneAndCmdLost : Prop :=
  ∀ s : State,
    (∀ v, HostWrites s 0x008 v → ∃ t, step s = .next t ∧
      t.status.done = (s.status.done && !v.getLsbD 1) ∧
      t.status.cmdLost = (s.status.cmdLost && !v.getLsbD 4) ∧
      t.status.lrange = s.status.lrange ∧ t.status.errCode = s.status.errCode ∧ t.busy = s.busy ∧
      SameEngineData s t) ∧
    ∀ x, HostReads s 0x008 x → ∃ t, step s = .next t ∧ t.status = s.status ∧ t.busy = s.busy ∧
      SameEngineData s t

/-- R53: IDLE becomes RUN only by the acceptance of a CMD write; RUN becomes IDLE only by a completion or by
RESET, and RESET puts the engine in IDLE; the latched word never changes while the engine is in RUN. -/
def Obligations.EngineMovesBetweenIdleAndRun : Prop :=
  ∀ s t : State, step s = .next t →
    (s.busy = false → t.busy = true → ∃ v k, HostWrites s 0x004 v ∧ t.engine = .run v k) ∧
    (s.busy = true → t.busy = false →
      (∃ w, s.engine = .run w 0 ∧ t.status.done = true) ∨ HostTurn s .assertReset) ∧
    (HostTurn s .assertReset → t.engine = .idle) ∧
    ∀ w k, s.engine = .run w k → t.busy = true → ∃ k', t.engine = .run w k'

/-- R26: DONE becomes 1 at every completion and at nothing else; it becomes 0 at an acceptance, at a STATUS write
with bit 1 set and at RESET, and at nothing else; and it stays 0 while BUSY. -/
def Obligations.DoneChangesOnlyAsItsRuleSays : Prop :=
  ∀ s t : State, step s = .next t →
    (∀ w, s.engine = .run w 0 → t.status.done = true) ∧
    (s.status.done = false → t.status.done = true → ∃ w, s.engine = .run w 0) ∧
    (s.status.done = true → (t.status.done = false ↔
      (s.engine = .idle ∧ ∃ v, HostWrites s 0x004 v) ∨
      (∃ v, HostWrites s 0x008 v ∧ v.getLsbD 1 = true) ∨
      HostTurn s .assertReset)) ∧
    ((s.busy = true → s.status.done = false) → t.busy = true → t.status.done = false)

/-- R29: CMDLOST becomes 1 at a CMD write while a command runs, and becomes 0 at a STATUS write with bit 4 set and
at RESET; nothing else, acceptance and completion included, changes it. -/
def Obligations.CmdLostChangesOnlyAsItsRuleSays : Prop :=
  ∀ s t : State, step s = .next t →
    (s.status.cmdLost = false → (t.status.cmdLost = true ↔
      s.busy = true ∧ ∃ v, HostWrites s 0x004 v)) ∧
    (s.status.cmdLost = true → (t.status.cmdLost = false ↔
      (∃ v, HostWrites s 0x008 v ∧ v.getLsbD 4 = true) ∨ HostTurn s .assertReset))

/-- R32: ERR_ADDR changes at one point only, the completion of a command that ends with BUS_ERROR; RESET clears it
(R230). -/
def Obligations.ErrAddrChangesOnlyAtABusError : Prop :=
  ∀ s t : State, step s = .next t → t.errAddr ≠ s.errAddr →
    (∃ w, s.engine = .run w 0 ∧ t.status.errCode = 6 ∧ t.status.done = true) ∨
    (HostTurn s .assertReset ∧ t.errAddr = 0)

/-- R244: without RESET, a command accepted with wait `k` runs for `k` more steps and is complete after `k + 1`; if
the host has no more moves, those steps are made. The wait is the model's (log 2). -/
def Obligations.AcceptedCommandCompletes : Prop :=
  ∀ (s : State) (w : Word) (k : Nat), s.engine = .run w k → (∀ m ∈ s.prog, m ≠ .assertReset) →
    (∀ j u, j ≤ k → core.run j s = .next u → u.engine = .run w (k - j)) ∧
    (∀ t, core.run (k + 1) s = .next t → t.busy = false ∧ t.status.done = true) ∧
    (s.prog.length ≤ s.hpc → SafeRun (k + 1) s)

/-- R111, R244: the host's WAIT loop ends, with the command complete and the host past the loop, on every platform
where the address of STATUS is aligned (R21). The wait `k` is the model's (log 2). -/
def Obligations.WaitLoopEnds : Prop :=
  ∀ (s : State) (w : Word) (k x : Nat), s.engine = .run w k → s.plat.alignedAt 0x008 = true →
    s.prog[s.hpc]? = some (.rd 0x008 .w32 x) → s.prog[s.hpc + 1]? = some (.bnz x 0x1 s.hpc) →
    ∃ j t, j ≤ k + 4 ∧ core.run j s = .next t ∧ t.hpc = s.hpc + 2 ∧ t.busy = false ∧ t.status.done = true

/-- R246: how long the engine stays busy does not depend on the key, the tables, the filler words or the contents of
memory: every step leaves the same engine state, its wait (the model's, log 2) included. -/
def Obligations.BusyTimeIsIndependentOfSecrets : Prop :=
  ∀ (s t : State) (k : Vector Word 4) (f : Vector Word 3) (tb bt : Vector Word 16) (m : Memory), step s = .next t →
    ∃ t', step { s with key := k, fill := f, tbl := tb, mem := m, plat := { s.plat with builtin := bt } } = .next t' ∧
      t'.engine = t.engine

/-! ### The register window -/

/-- R20: in IDLE, a write to a RW register is what a read of it returns and no other register reads differently; a
write to a RO or reserved register is ignored; a write to a key register is stored, and no key register ever reads
other than 0. -/
def Obligations.RegisterWriteThenReads : Prop :=
  ∀ (s : State) (r : Reg) (v : Word), s.engine = .idle → r ≠ .cmd → r ≠ .status →
    HostWrites s (regOffset r) v →
    ∃ t, step s = .next t ∧
      (∀ r', t.readReg r' = if r' = r ∧ storesAndReads r then v else s.readReg r') ∧
      (∀ j : Fin 4, t.key[j] = if r = .key j then v else s.key[j]) ∧
      (∀ j : Fin 4, t.readReg (.key j) = 0) ∧
      t.engine = .idle ∧ t.status = s.status ∧ t.seq = s.seq ∧ t.mem = s.mem ∧ t.plat = s.plat

/-- R45: every offset R20 does not name reads 0 and ignores writes, in IDLE and while a command runs. -/
def Obligations.ReservedOffsetsReadZeroAndIgnoreWrites : Prop :=
  ∀ (s : State) (off : BitVec 12),
    off.toNat % 4 ≠ 0 ∨ off.toNat = 0x02C ∨ (0x05C ≤ off.toNat ∧ off.toNat ≤ 0x07C) ∨ 0x0C0 ≤ off.toNat →
    (∀ x, ReadNames s x off 0) ∧
    ∀ v, HostWrites s off v → step s = .next s.afterMove

/-- R21: a write of another width or at an address that is not a multiple of 4 has no effect on any register, and a
read of that kind names some value and changes no register. That the value is one 32-bit word is the model's choice
(log 27). -/
def Obligations.UndefinedWindowAccessChangesNoRegister : Prop :=
  ∀ (s : State) (off : BitVec 12) (wd : Width), wd ≠ .w32 ∨ (s.plat.engineBase.toNat + off.toNat) % 4 ≠ 0 →
    (∀ v, HostTurn s (.wr off wd v) → step s = .next s.afterMove) ∧
    ∀ x, HostTurn s (.rd off wd x) →
      ∃ v d, step s = .next { s.afterMove with names := (x, .word v) :: s.names, draws := d }

/-- R20, R22, R23, R42, R86: what a read at each register's offset names, in every state: the constant of ID, 0 for CMD
and the keys, the STATUS word of R24, and the register's own field elsewhere; a read has no side effect. -/
def Obligations.RegisterReadReturnsItsRegister : Prop :=
  ∀ (s : State) (x : Nat),
    let reads := ReadNames s x
    reads 0x000 0x54454131 ∧ reads 0x004 0 ∧
    reads 0x008 (BitVec.ofNat 32 (s.busy.toNat + 2 * s.status.done.toNat +
      4 * (if s.status.errCode = 0 then 0 else 1) + 8 * s.status.lrange.toNat + 16 * s.status.cmdLost.toNat +
      256 * s.status.errCode.toNat)) ∧
    reads 0x00C s.errAddr ∧ reads 0x010 s.srcAddr ∧ reads 0x014 s.srcLen ∧ reads 0x018 s.dstAddr ∧
    reads 0x01C s.dstCap ∧ reads 0x020 s.resultLen ∧ reads 0x024 s.resultOff ∧ reads 0x028 s.arg ∧
    reads 0x030 s.dinLo ∧ reads 0x034 s.dinHi ∧ reads 0x038 s.doutLo ∧ reads 0x03C s.doutHi ∧
    (∀ i : Fin 4, reads (BitVec.ofNat 12 (0x040 + 4 * i)) 0) ∧
    (∀ i : Fin 3, reads (BitVec.ofNat 12 (0x050 + 4 * i)) s.fill[i]) ∧
    ∀ i : Fin 16, reads (BitVec.ofNat 12 (0x080 + 4 * i)) s.tbl[i]

/-- R42, R51: no move of the host or the platform lets anyone tell one key from another: with another key, the same
move names the same values, leaves the same registers readable and the same memory. -/
def Obligations.NoMoveRevealsTheKey : Prop :=
  ∀ (s t : State) (k : Vector Word 4), (∀ w, s.engine ≠ .run w 0) → step s = .next t →
    ∃ t', step { s with key := k } = .next t' ∧ t'.names = t.names ∧ t'.hpc = t.hpc ∧ t'.mem = t.mem ∧
      ∀ r, t'.readReg r = t.readReg r

/-- R24, R27: where the fields of the STATUS word stand, ERR is 1 exactly when ERRCODE is not 0, and every other bit
reads 0. -/
def Obligations.StatusWordLayout : Prop :=
  ∀ s : State, (s.readReg (regAt 0x008)).toNat =
    s.busy.toNat + 2 * s.status.done.toNat + 4 * (if s.status.errCode = 0 then 0 else 1) +
      8 * s.status.lrange.toNat + 16 * s.status.cmdLost.toNat + 256 * s.status.errCode.toNat

/-! ### Normalizer and length commands -/

/-- R122: BSWAP16 completes with the swapped (or kept) low 16 bits of DIN, zero-extended, and changes
nothing else; every other word with its OP is illegal. -/
def Obligations.Bswap16Completes : Prop :=
  (∀ w, decode w = .ok (.bswap16 .normalizing) ↔ w = 0x00000001) ∧
  (∀ w, decode w = .ok (.bswap16 .native) ↔ w = 0x00000021) ∧
  (∀ w : Word, w.toNat % 16 = 1 → w ≠ 0x00000001 → w ≠ 0x00000021 → ∃ e, decode w = .error e) ∧
  ∀ (s : State) (o : ByteOrder), ∃ t, exec (.bswap16 o) s = .next t ∧ t.doutHi = 0 ∧
    t.doutLo.toNat = (match o with
      | .normalizing => s.dinLo.toNat % 256 * 256 + s.dinLo.toNat / 256 % 256
      | .native => s.dinLo.toNat % 65536) ∧
    CompletedWith s t 0 false ∧ SameButDout s t

/-- R123: BSWAP32 completes with the bytes of DIN_LO reversed (or kept), zero-extended, and changes nothing else. -/
def Obligations.Bswap32Completes : Prop :=
  (∀ w, decode w = .ok (.bswap32 .normalizing) ↔ w = 0x00000002) ∧
  (∀ w, decode w = .ok (.bswap32 .native) ↔ w = 0x00000022) ∧
  ∀ (s : State) (o : ByteOrder), ∃ t, exec (.bswap32 o) s = .next t ∧ t.doutHi = 0 ∧
    (∀ j < 4, t.doutLo.toNat / 256 ^ j % 256 = (match o with
      | .normalizing => s.dinLo.toNat / 256 ^ (3 - j) % 256
      | .native => s.dinLo.toNat / 256 ^ j % 256)) ∧
    CompletedWith s t 0 false ∧ SameButDout s t

/-- R124: BSWAP64 completes with the bytes of DIN reversed (or kept) across both result registers, and changes
nothing else. -/
def Obligations.Bswap64Completes : Prop :=
  (∀ w, decode w = .ok (.bswap64 .normalizing) ↔ w = 0x00000003) ∧
  (∀ w, decode w = .ok (.bswap64 .native) ↔ w = 0x00000023) ∧
  ∀ (s : State) (o : ByteOrder), ∃ t, exec (.bswap64 o) s = .next t ∧
    (∀ j < 8, (t.doutHi.toNat * 4294967296 + t.doutLo.toNat) / 256 ^ j % 256 = (match o with
      | .normalizing => (s.dinHi.toNat * 4294967296 + s.dinLo.toNat) / 256 ^ (7 - j) % 256
      | .native => (s.dinHi.toNat * 4294967296 + s.dinLo.toNat) / 256 ^ j % 256)) ∧
    CompletedWith s t 0 false ∧ SameButDout s t

/-- R125: each byte swap is its own inverse and a bijection, each BSWAP command applied to its own output restores
its input, and a block normalized on read and again on write is unchanged. -/
def Obligations.SwapsAreInvolutions : Prop :=
  (∀ v, bswap16 (bswap16 v) = v) ∧ (∀ v, bswap32 (bswap32 v) = v) ∧ (∀ v, bswap64 (bswap64 v) = v) ∧
  Function.Bijective bswap16 ∧ Function.Bijective bswap32 ∧ Function.Bijective bswap64 ∧
  (∀ s u t t' : State, exec (.bswap16 .normalizing) s = .next t → u.dinLo = t.doutLo →
    exec (.bswap16 .normalizing) u = .next t' → t'.doutLo.toNat = s.dinLo.toNat % 65536) ∧
  (∀ s u t t' : State, exec (.bswap32 .normalizing) s = .next t → u.dinLo = t.doutLo →
    exec (.bswap32 .normalizing) u = .next t' → t'.doutLo = s.dinLo) ∧
  (∀ s u t t' : State, exec (.bswap64 .normalizing) s = .next t → u.dinLo = t.doutLo → u.dinHi = t.doutHi →
    exec (.bswap64 .normalizing) u = .next t' → t'.doutLo = s.dinLo ∧ t'.doutHi = s.dinHi) ∧
  ∀ b : List Byte, b.length = 8 → storeBlock .normalizing (loadBlock .normalizing b) = b

/-- R78: in normalizing order byte 0 is the most significant, in native order the least; and StoreBlock and LoadBlock
are inverse to each other for each order. -/
def Obligations.BlockConversionsAreInverse : Prop :=
  (∀ (o : ByteOrder) (v : DWord), loadBlock o (storeBlock o v) = v) ∧
  (∀ (o : ByteOrder) (b : List Byte), b.length = 8 → storeBlock o (loadBlock o b) = b) ∧
  (∀ (v : DWord) (j : Nat), j < 8 → ((storeBlock .normalizing v).getD j 0).toNat = v.toNat / 256 ^ (7 - j) % 256) ∧
  (∀ (v : DWord) (j : Nat), j < 8 → ((storeBlock .native v).getD j 0).toNat = v.toNat / 256 ^ j % 256) ∧
  (∀ (b : List Byte) (j : Nat), b.length = 8 → j < 8 →
    (loadBlock .normalizing b).toNat / 256 ^ (7 - j) % 256 = (b.getD j 0).toNat) ∧
  (∀ (b : List Byte) (j : Nat), b.length = 8 → j < 8 →
    (loadBlock .native b).toNat / 256 ^ j % 256 = (b.getD j 0).toNat)

/-- R141: CTLEN completes with the ciphertext length modulo 2^32, its header offset and the range indicator,
and every other word with its OP is illegal. -/
def Obligations.CtlenCompletes : Prop :=
  (∀ w, decode w = .ok .ctlen ↔ w = 0x00000004) ∧
  (∀ w : Word, w.toNat % 16 = 4 → w ≠ 0x00000004 → ∃ e, decode w = .error e) ∧
  ∀ s : State, ∃ t, exec .ctlen s = .next t ∧
    t.resultLen.toNat = cipherLength s.srcLen.toNat % 4294967296 ∧
    t.resultOff.toNat = 10 - (s.srcLen.toNat + 1) % 8 ∧
    CompletedWith s t 0 (decide (0xFFFFFFEF ≤ s.srcLen.toNat)) ∧ SameButLengths s t

/-- R142: PTLEN completes with the plaintext length modulo 2^32, the header offset of ARG's low three bits and the
indicator of a negative length. -/
def Obligations.PtlenCompletes : Prop :=
  (∀ w, decode w = .ok .ptlen ↔ w = 0x00000005) ∧
  ∀ s : State, ∃ t, exec .ptlen s = .next t ∧
    t.resultOff.toNat = s.arg.toNat % 8 + 3 ∧
    (t.resultLen.toNat : Int) = ((s.srcLen.toNat : Int) - 10 - (s.arg.toNat % 8 : Nat)) % 4294967296 ∧
    CompletedWith s t 0 (decide (s.srcLen.toNat < 10 + s.arg.toNat % 8)) ∧ SameButLengths s t

/-- R137: the identity of the ciphertext length and its bounds. -/
def Obligations.CiphertextLengthIdentity : Prop :=
  (∀ n, ctlen n = 8 * ((n + 1) / 8) + 16 ∧ ctlen n % 8 = 0 ∧ 16 ≤ ctlen n ∧ 10 ≤ ctlen n - n ∧ ctlen n - n ≤ 17) ∧
  (∀ n, n < 4294967296 → (ctlen n ≤ 4294967295 ↔ n ≤ 0xFFFFFFEE)) ∧ ctlen 0xFFFFFFEE = 0xFFFFFFF8 ∧
  ∀ n, 0xFFFFFFEF ≤ n → n ≤ 0xFFFFFFFF →
    ctlen n = 4294967296 ∨ ctlen n = 4294967296 + 8 ∨ ctlen n = 4294967296 + 16

/-- R140: the header byte of a plaintext of length `n` gives its offset and its length back. -/
def Obligations.HeaderByteGivesOffsetAndLengthBack : Prop :=
  ∀ (n : Nat) (src : List Byte) (f : Vector Word 3), src.length = n →
    (pad src f).headD 0 = 0xF8 ||| BitVec.ofNat 8 (fillOf n - 3) ∧
    hdroff ((pad src f).headD 0) = fillOf n ∧ ptlen (ctlen n) ((pad src f).headD 0) = n

/-! ### The cipher functions -/

/-- R155, R157: EncBlock splits the block into its high and low word, runs 16 forward rounds with the constants in
ascending order, and joins the halves. That `v0` is the high word (R154) is PRESUMED, log 4. -/
def Obligations.EncBlockRunsSixteenForwardRounds : Prop :=
  ∀ (t : Vector Word 16) (k : Vector Word 4) (x : DWord), ∃ v0 v1 : Nat → Word,
    (v0 0).toNat = x.toNat / 4294967296 ∧ (v1 0).toNat = x.toNat % 4294967296 ∧
    (∀ (r : Nat) (_ : r < 16),
      v0 (r + 1) = v0 r + ((v1 r + t[r]) ^^^ ((v1 r <<< 4) + k[0]) ^^^ ((v1 r >>> 5) + k[1])) ∧
      v1 (r + 1) = v1 r + ((v0 (r + 1) + t[r]) ^^^ ((v0 (r + 1) <<< 4) + k[2]) ^^^ ((v0 (r + 1) >>> 5) + k[3]))) ∧
    (encBlock t k x).toNat = (v0 16).toNat * 4294967296 + (v1 16).toNat

/-- R156, R158: DecBlock splits the block into its high and low word, runs 16 reverse rounds with the constants in
descending order, and joins the halves. That `v0` is the high word (R154) is PRESUMED, log 4. -/
def Obligations.DecBlockRunsSixteenReverseRounds : Prop :=
  ∀ (t : Vector Word 16) (k : Vector Word 4) (x : DWord), ∃ v0 v1 : Nat → Word,
    (v0 16).toNat = x.toNat / 4294967296 ∧ (v1 16).toNat = x.toNat % 4294967296 ∧
    (∀ (r : Nat) (_ : r < 16),
      v1 r = v1 (r + 1) -
        ((v0 (r + 1) + t[r]) ^^^ ((v0 (r + 1) <<< 4) + k[2]) ^^^ ((v0 (r + 1) >>> 5) + k[3])) ∧
      v0 r = v0 (r + 1) - ((v1 r + t[r]) ^^^ ((v1 r <<< 4) + k[0]) ^^^ ((v1 r >>> 5) + k[1]))) ∧
    (decBlock t k x).toNat = (v0 0).toNat * 4294967296 + (v1 0).toNat

/-- R159: DecBlock and EncBlock are inverse to each other, so EncBlock is a bijection on 64-bit words. -/
def Obligations.BlockTransformIsABijection : Prop :=
  ∀ (t : Vector Word 16) (k : Vector Word 4),
    (∀ x, decBlock t k (encBlock t k x) = x) ∧ (∀ x, encBlock t k (decBlock t k x) = x) ∧
    Function.Bijective (encBlock t k)

/-- R170, R171: the padded image is the header byte, filler bytes 1 to fill - 1 of the filler words in little-endian
order, the plaintext, and seven zero bytes. -/
def Obligations.PadLaysOutTheImage : Prop :=
  (∀ (src : List Byte) (f : Vector Word 3), pad src f =
    (0xF8 ||| BitVec.ofNat 8 (fillOf src.length - 3)) ::
      ((List.range (fillOf src.length - 1)).map fun j => fillerByte f (j + 1)) ++ src ++ List.replicate 7 0) ∧
  ∀ (f : Vector Word 3) (j : Nat) (h : j < 12),
    (fillerByte f j).toNat = (f[j / 4]'(by omega)).toNat / 256 ^ (j % 4) % 256

/-- R184: the padded images of two encryptions of one plaintext differ at most in bytes 1 to fill - 1. -/
def Obligations.FillerWordsReachFillerBytesAlone : Prop :=
  ∀ (src : List Byte) (f g : Vector Word 3) (j : Nat), j = 0 ∨ fillOf src.length ≤ j →
    (pad src f).getD j 0 = (pad src g).getD j 0

/-- R173: the double-XOR feedback of encryption, block by block, both accumulators starting at 0. -/
def Obligations.EncryptionChainRecurrence : Prop :=
  ∀ (t : Vector Word 16) (k : Vector Word 4) (o : ByteOrder) (p : List Byte), p.length % 8 = 0 →
    (encChain t k p o).length = p.length ∧
    ∃ holder out : Nat → DWord, holder 0 = 0 ∧ out 0 = 0 ∧ ∀ i < p.length / 8,
      holder (i + 1) = loadBlock o ((p.drop (8 * i)).take 8) ^^^ out i ∧
      out (i + 1) = encBlock t k (holder (i + 1)) ^^^ holder i ∧
      ((encChain t k p o).drop (8 * i)).take 8 = storeBlock o (out (i + 1))

/-- R174: the inverse chaining of decryption, block by block, both accumulators starting at 0. -/
def Obligations.DecryptionChainRecurrence : Prop :=
  ∀ (t : Vector Word 16) (k : Vector Word 4) (o : ByteOrder) (c : List Byte), c.length % 8 = 0 →
    (decChain t k c o).length = c.length ∧
    ∃ acc blk : Nat → DWord, acc 0 = 0 ∧ blk 0 = 0 ∧ ∀ i < c.length / 8,
      blk (i + 1) = loadBlock o ((c.drop (8 * i)).take 8) ∧
      acc (i + 1) = decBlock t k (acc i ^^^ blk (i + 1)) ∧
      ((decChain t k c o).drop (8 * i)).take 8 = storeBlock o (acc (i + 1) ^^^ blk i)

/-- R175: decryption chaining inverts encryption chaining, for every table, key, order and image of whole blocks. -/
def Obligations.DecryptionChainInvertsEncryptionChain : Prop :=
  ∀ (t : Vector Word 16) (k : Vector Word 4) (o : ByteOrder) (p : List Byte), p.length % 8 = 0 →
    decChain t k (encChain t k p o) o = p

/-! ### The cipher commands -/

/-- R203, R204, R205, R208, R209, R211: an encryption whose buffers fail a check reports the first that fails, in the
order of R208, and leaves memory and every other register. -/
def Obligations.EncryptionFailsInPriorityOrder : Prop :=
  ∀ (s : State) (o : ByteOrder) (i : Instr), i = .encb o ∨ i = .encc o →
    (s.dstCap.toNat < cipherLength s.srcLen.toNat → ∃ t, exec i s = .next t ∧ FailedPrecisely s t 3) ∧
    (cipherLength s.srcLen.toNat ≤ s.dstCap.toNat →
      (4294967296 < s.srcAddr.toNat + s.srcLen.toNat ∨
        4294967296 < s.dstAddr.toNat + cipherLength s.srcLen.toNat) →
      ∃ t, exec i s = .next t ∧ FailedPrecisely s t 4) ∧
    (cipherLength s.srcLen.toNat ≤ s.dstCap.toNat → s.srcAddr.toNat + s.srcLen.toNat ≤ 4294967296 →
      s.dstAddr.toNat + cipherLength s.srcLen.toNat ≤ 4294967296 → 0 < s.srcLen.toNat →
      s.srcAddr.toNat < s.dstAddr.toNat + cipherLength s.srcLen.toNat →
      s.dstAddr.toNat < s.srcAddr.toNat + s.srcLen.toNat →
      ∃ t, exec i s = .next t ∧ FailedPrecisely s t 5)

/-- R202 to R205, R208, R209, R211: a decryption reports BAD_LENGTH first, then its buffer checks in order, and
leaves memory and every other register. -/
def Obligations.DecryptionFailsInPriorityOrder : Prop :=
  ∀ (s : State) (o : ByteOrder) (i : Instr), i = .decb o ∨ i = .decc o →
    (¬CipherLengthLegal s.srcLen.toNat → ∃ t, exec i s = .next t ∧ FailedPrecisely s t 2) ∧
    (CipherLengthLegal s.srcLen.toNat → s.dstCap.toNat < s.srcLen.toNat →
      ∃ t, exec i s = .next t ∧ FailedPrecisely s t 3) ∧
    (CipherLengthLegal s.srcLen.toNat → s.srcLen.toNat ≤ s.dstCap.toNat →
      (4294967296 < s.srcAddr.toNat + s.srcLen.toNat ∨ 4294967296 < s.dstAddr.toNat + s.srcLen.toNat) →
      ∃ t, exec i s = .next t ∧ FailedPrecisely s t 4) ∧
    (CipherLengthLegal s.srcLen.toNat → s.srcLen.toNat ≤ s.dstCap.toNat →
      s.srcAddr.toNat + s.srcLen.toNat ≤ 4294967296 → s.dstAddr.toNat + s.srcLen.toNat ≤ 4294967296 →
      s.srcAddr.toNat < s.dstAddr.toNat + s.srcLen.toNat → s.dstAddr.toNat < s.srcAddr.toNat + s.srcLen.toNat →
      ∃ t, exec i s = .next t ∧ FailedPrecisely s t 5)

/-- R209, R211: on every failure the result and operand registers are as before, LRANGE is 0, DONE is 1, the engine is
IDLE again, and ERR_ADDR changes only for BUS_ERROR; without BUS_ERROR every byte of memory is as before, and the
command made no access: with any other memory and any other bus admission the step differs in those alone. -/
def Obligations.EveryFailureIsRecoverable : Prop :=
  ∀ (s t : State) (w : Word), s.engine = .run w 0 → step s = .next t → t.status.errCode ≠ 0 →
    SameOperands s t ∧ SameLengths s t ∧ SameDout s t ∧ t.status.lrange = false ∧ t.status.done = true ∧
      t.busy = false ∧
      (t.status.errCode ≠ 6 → t.errAddr = s.errAddr ∧ t.mem = s.mem ∧ ∀ (m : Memory) (b : List BusWindow),
        step { s with mem := m, plat := { s.plat with busRefused := b } } =
          .next { t with mem := m, plat := { t.plat with busRefused := b } })

/-- R176, R177, R178: an encryption whose buffers fit and whose accesses are admitted completes: the destination holds
the chained padded image of the source, RESULT_LEN its length, RESULT_OFF the payload offset, LRANGE is 0, every other
byte of memory and every other register is as before. -/
def Obligations.EncryptionWritesTheChainedImage : Prop :=
  encode (.encb .normalizing) = 0x00000006 ∧ encode (.encb .native) = 0x00000026 ∧
  encode (.encc .normalizing) = 0x00000016 ∧ encode (.encc .native) = 0x00000036 ∧
  ∀ (s : State) (o : ByteOrder) (i : Instr) (tb : Vector Word 16),
    (i = .encb o ∧ tb = s.plat.builtin) ∨ (i = .encc o ∧ tb = s.tbl) → s.mem.wf = true →
    BuffersFit s (cipherLength s.srcLen.toNat) → BusAdmits s (cipherLength s.srcLen.toNat) →
    ∃ t, exec i s = .next t ∧
      (∀ x, t.mem.readByte x =
        if s.dstAddr.toNat ≤ x ∧ x < s.dstAddr.toNat + cipherLength s.srcLen.toNat then
          (encChain tb s.key (pad (s.mem.readBytes s.srcAddr.toNat s.srcLen.toNat) s.fill) o).getD
            (x - s.dstAddr.toNat) 0
        else s.mem.readByte x) ∧
      t.resultLen.toNat = cipherLength s.srcLen.toNat ∧
      t.resultOff.toNat = 10 - (s.srcLen.toNat + 1) % 8 ∧
      CompletedWith s t 0 false ∧ SameOperands s t ∧ SameDout s t ∧ SameOutside s t ∧
      t.errAddr = s.errAddr ∧ t.draws = s.draws

/-- R179 to R182: a decryption of a legal length whose buffers fit and whose accesses are admitted completes whatever
the ciphertext holds: the destination holds the unchained image, and RESULT_OFF, RESULT_LEN and LRANGE come from its
first byte by R138 and R139. -/
def Obligations.DecryptionWritesTheUnchainedImage : Prop :=
  encode (.decb .normalizing) = 0x00000007 ∧ encode (.decb .native) = 0x00000027 ∧
  encode (.decc .normalizing) = 0x00000017 ∧ encode (.decc .native) = 0x00000037 ∧
  ∀ (s : State) (o : ByteOrder) (i : Instr) (tb : Vector Word 16) (image : List Byte) (first : Nat),
    (i = .decb o ∧ tb = s.plat.builtin) ∨ (i = .decc o ∧ tb = s.tbl) → s.mem.wf = true →
    CipherLengthLegal s.srcLen.toNat → BuffersFit s s.srcLen.toNat → BusAdmits s s.srcLen.toNat →
    image = decChain tb s.key (s.mem.readBytes s.srcAddr.toNat s.srcLen.toNat) o →
    first = (image.getD 0 0).toNat % 8 →
    ∃ t, exec i s = .next t ∧
      (∀ x, t.mem.readByte x =
        if s.dstAddr.toNat ≤ x ∧ x < s.dstAddr.toNat + s.srcLen.toNat then image.getD (x - s.dstAddr.toNat) 0
        else s.mem.readByte x) ∧
      t.resultOff.toNat = first + 3 ∧
      (t.resultLen.toNat : Int) = ((s.srcLen.toNat : Int) - 10 - (first : Int)) % 4294967296 ∧
      CompletedWith s t 0 (decide (s.srcLen.toNat < 10 + first)) ∧ SameOperands s t ∧ SameDout s t ∧
      SameOutside s t ∧ t.errAddr = s.errAddr ∧ t.draws = s.draws

/-- R81, R206, R210, R211: an encryption whose checks pass and whose first refused access in the order of R81 is a
source read or a destination write ends with BUS_ERROR, ERR_ADDR is that byte's address, and the result and operand
registers and every byte outside the destination range are as before. -/
def Obligations.EncryptionBusErrorReportsTheFirstRefusal : Prop :=
  ∀ (s : State) (o : ByteOrder) (i : Instr) (addr : Nat), i = .encb o ∨ i = .encc o → s.mem.wf = true →
    BuffersFit s (cipherLength s.srcLen.toNat) →
    (∃ k, addr = s.srcAddr.toNat + k ∧ k < s.srcLen.toNat ∧ s.plat.admits addr .read = false ∧
      (∀ j < k, s.plat.admits (s.srcAddr.toNat + j) .read = true) ∧
      ∀ m < 8 * ((fillOf s.srcLen.toNat + k) / 8), s.plat.admits (s.dstAddr.toNat + m) .write = true) ∨
    (∃ m, addr = s.dstAddr.toNat + m ∧ m < cipherLength s.srcLen.toNat ∧ s.plat.admits addr .write = false ∧
      (∀ j < m, s.plat.admits (s.dstAddr.toNat + j) .write = true) ∧
      ∀ k < s.srcLen.toNat, (fillOf s.srcLen.toNat + k) / 8 ≤ m / 8 →
        s.plat.admits (s.srcAddr.toNat + k) .read = true) →
    ∃ t, exec i s = .next t ∧ t.errAddr.toNat = addr ∧ FailedWith s t 6 ∧
      ∀ x, x < s.dstAddr.toNat ∨ s.dstAddr.toNat + cipherLength s.srcLen.toNat ≤ x →
        t.mem.readByte x = s.mem.readByte x

/-- R82, R206, R210, R211: a decryption whose checks pass and whose first refused access in the order of R82 is a source
read or a destination write ends with BUS_ERROR, ERR_ADDR is that byte's address, and the result and operand
registers and every byte outside the destination range are as before. -/
def Obligations.DecryptionBusErrorReportsTheFirstRefusal : Prop :=
  ∀ (s : State) (o : ByteOrder) (i : Instr) (addr : Nat), i = .decb o ∨ i = .decc o → s.mem.wf = true →
    CipherLengthLegal s.srcLen.toNat → BuffersFit s s.srcLen.toNat →
    (∃ k, addr = s.srcAddr.toNat + k ∧ k < s.srcLen.toNat ∧ s.plat.admits addr .read = false ∧
      (∀ j < k, s.plat.admits (s.srcAddr.toNat + j) .read = true) ∧
      ∀ m < 8 * (k / 8), s.plat.admits (s.dstAddr.toNat + m) .write = true) ∨
    (∃ m, addr = s.dstAddr.toNat + m ∧ m < s.srcLen.toNat ∧ s.plat.admits addr .write = false ∧
      (∀ j < m, s.plat.admits (s.dstAddr.toNat + j) .write = true) ∧
      ∀ k < s.srcLen.toNat, k / 8 ≤ m / 8 → s.plat.admits (s.srcAddr.toNat + k) .read = true) →
    ∃ t, exec i s = .next t ∧ t.errAddr.toNat = addr ∧ FailedWith s t 6 ∧
      ∀ x, x < s.dstAddr.toNat ∨ s.dstAddr.toNat + s.srcLen.toNat ≤ x → t.mem.readByte x = s.mem.readByte x

/-- R183, R185: decrypting what an encryption wrote, with the same key, table and order, gives the plaintext back at
RESULT_OFF = fill(n), its length in RESULT_LEN, and LRANGE 0. -/
def Obligations.DecryptionRestoresThePlaintext : Prop :=
  ∀ (s s' t : State) (o : ByteOrder) (enc dec : Instr),
    (enc = .encb o ∧ dec = .decb o ∧ s'.plat.builtin = s.plat.builtin) ∨
      (enc = .encc o ∧ dec = .decc o ∧ s'.tbl = s.tbl) →
    s.mem.wf = true → exec enc s = .next t → t.status.errCode = 0 →
    s'.mem.wf = true → s'.key = s.key → s'.srcLen = t.resultLen →
    (∀ m < t.resultLen.toNat,
      s'.mem.readByte (s'.srcAddr.toNat + m) = t.mem.readByte (s.dstAddr.toNat + m)) →
    BuffersFit s' t.resultLen.toNat → BusAdmits s' t.resultLen.toNat →
    ∃ t', exec dec s' = .next t' ∧ t'.resultOff.toNat = 10 - (s.srcLen.toNat + 1) % 8 ∧ t'.resultLen = s.srcLen ∧
      t'.status.lrange = false ∧ t'.status.errCode = 0 ∧
      ∀ j < s.srcLen.toNat, t'.mem.readByte (s'.dstAddr.toNat + t'.resultOff.toNat + j) =
        s.mem.readByte (s.srcAddr.toNat + j)

/-- R153, R178: with the built-in table written to the custom table, ENCC and ENCB, and DECC and DECB, do the same. -/
def Obligations.EqualTablesGiveEqualCommands : Prop :=
  ∀ (s : State) (o : ByteOrder), s.tbl = s.plat.builtin →
    exec (.encc o) s = exec (.encb o) s ∧ exec (.decc o) s = exec (.decb o) s

/-- R43, R54: no command writes an operand register, a key, filler or table register, or the platform. -/
def Obligations.CommandsKeepTheirOperands : Prop :=
  ∀ (i : Instr) (s t : State), exec i s = .next t → SameOperands s t ∧ SameOutside s t

/-- R33, R36, R72: no command changes a byte of its source range, a byte below DST_ADDR, or a byte at or beyond
DST_ADDR + DST_CAP. -/
def Obligations.CommandsWriteWithinTheirCapacity : Prop :=
  ∀ (i : Instr) (s t : State) (x : Nat), s.mem.wf = true → exec i s = .next t →
    (s.srcAddr.toNat ≤ x ∧ x < s.srcAddr.toNat + s.srcLen.toNat) ∨ x < s.dstAddr.toNat ∨
      s.dstAddr.toNat + s.dstCap.toNat ≤ x →
    t.mem.readByte x = s.mem.readByte x

/-- R28, R176: no encryption sets LRANGE, whether it succeeds or fails. -/
def Obligations.EncryptionNeverSetsLrange : Prop :=
  ∀ (s t : State) (o : ByteOrder) (i : Instr), i = .encb o ∨ i = .encc o → exec i s = .next t →
    t.status.lrange = false

/-- R48, R240: the hidden registers a command finds change nothing but the hidden registers it leaves. -/
def Obligations.HiddenRegistersNeverMatter : Prop :=
  ∀ (i : Instr) (s t : State) (q : Sequencer), exec i s = .next t →
    ∃ q', exec i { s with seq := q } = .next { t with seq := q' }

/-! ### Memory and the host -/

/-- R110, R71, R238: a host store, in IDLE or while a command runs, whose bytes lie outside the ranges of the running
command or in the register window, writes its bytes outside the window and no others. That a store has no effect in
the window is log 18, and the ranges are those of log 23. -/
def Obligations.HostStoreWritesItsBytes : Prop :=
  ∀ (s : State) (a : Word) (bs : List Byte), HostTurn s (.memw a bs) → s.mem.wf = true →
    a.toNat + bs.length ≤ 4294967296 →
    (∀ x, a.toNat ≤ x → x < a.toNat + bs.length →
      s.plat.inWindow x = true ∨ (s.inRunningSrc x = false ∧ s.inRunningDst x = false)) →
    ∃ t, step s = .next t ∧ t = { s.afterMove with mem := t.mem } ∧
      ∀ x, t.mem.readByte x =
        if (a.toNat ≤ x ∧ x < a.toNat + bs.length) ∧ s.plat.inWindow x = false then bs.getD (x - a.toNat) 0
        else s.mem.readByte x

/-- R238, R243: the host has no move that stores into the source or destination range of the running command. The
refusal is the model's form of it (log 12). -/
def Obligations.HostStoreIntoARunningCommandIsRefused : Prop :=
  ∀ (s : State) (w : Word) (k : Nat) (a : Word) (bs : List Byte) (i : Instr) (wlen x : Nat),
    s.engine = .run w (k + 1) → decode w = .ok i →
    ((∃ o, i = .encb o ∨ i = .encc o) ∧ wlen = cipherLength s.srcLen.toNat) ∨
      ((∃ o, i = .decb o ∨ i = .decc o) ∧ wlen = s.srcLen.toNat) →
    s.prog[s.hpc]? = some (.memw a bs) → a.toNat + bs.length ≤ 4294967296 →
    a.toNat ≤ x → x < a.toNat + bs.length → s.plat.inWindow x = false →
    (s.srcAddr.toNat ≤ x ∧ x < s.srcAddr.toNat + s.srcLen.toNat) ∨
      (s.dstAddr.toNat ≤ x ∧ x < s.dstAddr.toNat + wlen) →
    step s = .refused .hostDuty

/-- R92, R93, R96, R110: a host load none of whose bytes is stale names one byte per address; each outside the register
window and the running command's destination is the byte of memory, and nothing else changes. No byte is stale on a
coherent platform, and an invalidation leaves no byte of its range stale. The form of staleness is the model's (log
13). -/
def Obligations.HostLoadReturnsMemory : Prop :=
  (∀ (s : State) (a : Word) (n x : Nat), HostTurn s (.memr a n x) → a.toNat + n ≤ 4294967296 →
    (∀ i < n, s.plat.inWindow (a.toNat + i) = true ∨ s.inRunningDst (a.toNat + i) = true ∨
      s.stale (a.toNat + i) = false) →
    ∃ bs d, step s = .next { s.afterMove with names := (x, .bytes bs) :: s.names, draws := d } ∧ bs.length = n ∧
      ∀ i < n, s.plat.inWindow (a.toNat + i) = false → s.inRunningDst (a.toNat + i) = false →
        bs.getD i 0 = s.mem.readByte (a.toNat + i)) ∧
  (∀ (s : State) (y : Nat), s.plat.dmaCoherent = true → s.stale y = false) ∧
  ∀ (s : State) (a : Word) (n : Nat), HostTurn s (.invalidate a n) →
    ∃ t, step s = .next t ∧ t = { s.afterMove with coherence := t.coherence } ∧
      ∀ y, t.stale y = if a.toNat ≤ y ∧ y < a.toNat + n then false else s.stale y

/-- R46, R73: no step changes the built-in table (or any platform parameter), and no register read depends on it. -/
def Obligations.NothingWritesTheBuiltinTable : Prop :=
  (∀ s t : State, step s = .next t → t.plat = s.plat) ∧
  ∀ (s : State) (b : Vector Word 16) (r : Reg),
    State.readReg { s with plat := { s.plat with builtin := b } } r = s.readReg r

/-! ### Reset and the invariant -/

/-- R230, R231: RESET gives every register, visible and hidden, its reset value whatever the engine is doing, and
`State.reset` has the same values. -/
def Obligations.ResetGivesEveryRegisterItsValue : Prop :=
  (∀ s : State, HostTurn s .assertReset → ∃ t, step s = .next t ∧ t.engine = .idle ∧
    (∀ r, t.readReg r = if r = .id then 0x54454131 else 0) ∧ (∀ j : Fin 4, t.key[j] = 0) ∧
    t.seq.chA = 0 ∧ t.seq.chB = 0 ∧ t.seq.blk = 0 ∧ t.seq.rnd = 0 ∧ t.seq.v0 = 0 ∧ t.seq.v1 = 0 ∧
    t.plat = s.plat) ∧
  State.reset.engine = .idle ∧ (∀ r, State.reset.readReg r = if r = .id then 0x54454131 else 0) ∧
  (∀ j : Fin 4, State.reset.key[j] = 0) ∧ State.reset.seq = ⟨0, 0, 0, 0, 0, 0⟩

/-- R232: RESET changes no byte of the running command's source range and no byte outside its destination range; in
IDLE it changes no byte at all. That a byte of both ranges keeps its value, where R232 also says it is a draw, is the
model's choice (log 15). -/
def Obligations.ResetKeepsMemoryOutsideTheDestination : Prop :=
  ∀ s : State, HostTurn s .assertReset → s.mem.wf = true → ∃ t, step s = .next t ∧
    (s.engine = .idle → t.mem = s.mem) ∧
    ∀ x, s.inRunningSrc x = true ∨ s.inRunningDst x = false → t.mem.readByte x = s.mem.readByte x

/-- R232: RESET while a cipher command runs, whatever that command would have reported, makes each byte of its
destination range a free value of its own, and leaves DONE and ERRCODE 0. The form of a free value is the model's
(log 9), and so is that a byte of both ranges keeps its value, as a byte of the source range (log 15). -/
def Obligations.ResetDrawsTheDestination : Prop :=
  ∀ s : State, HostTurn s .assertReset → s.mem.wf = true → ∃ t, step s = .next t ∧
    t.busy = false ∧ t.status.done = false ∧ t.status.errCode = 0 ∧
    ∀ x < 4294967296, s.inRunningDst x = true → s.inRunningSrc x = false →
      t.mem.readByte x = Config.freeByte (s.draws + (x - s.dstAddr.toNat))

/-- The invariant of Safety holds at reset (R230, R231). -/
def Obligations.ResetMeetsTheInvariant : Prop := State.reset.Inv

/-- Every step keeps the invariant: canonical memory, no DONE, code or range while BUSY (R26, R50, R236), a code of
the table (R207), LRANGE only without an error (R28), a legal header offset (R38). -/
def Obligations.StepKeepsTheInvariant : Prop :=
  ∀ s t : State, s.Inv → step s = .next t → t.Inv
end

