-- ==== Sys2Proof/Laws/Memory.lean ====
section
/-! SUPPORT. The laws of system memory: every operation keeps the canonical form, and a byte reads as it was last
written. -/

namespace Sys2Proof.Machine

open Memory

theorem Memory.wfFrom_mono {m : Memory} {lo lo' : Nat} (h : m.wfFrom lo = true) (hle : lo' ≤ lo) :
    m.wfFrom lo' = true := by
  cases m with
  | nil => rfl
  | cons c m =>
    obtain ⟨a, b⟩ := c
    simp only [wfFrom, Bool.and_eq_true, decide_eq_true_eq] at h ⊢
    exact ⟨⟨⟨by omega, h.1.1.2⟩, h.1.2⟩, h.2⟩

/-- Below its first possible address a canonical memory reads as unlisted. -/
theorem Memory.readByte_below {m : Memory} {lo x : Nat} (h : m.wfFrom lo = true) (hx : x < lo) :
    m.readByte x = Memory.unlisted := by
  cases m with
  | nil => rfl
  | cons c m =>
    obtain ⟨a, b⟩ := c
    simp only [wfFrom, Bool.and_eq_true, decide_eq_true_eq] at h
    simp only [readByte]
    rw [if_neg (by omega), if_pos (by omega)]

theorem Memory.writeByte_wfFrom {m : Memory} {lo x : Nat} (v : Byte) (h : m.wfFrom lo = true) (hlo : lo ≤ x)
    (hx : x < addressSpace) : (m.writeByte x v).wfFrom lo = true := by
  induction m generalizing lo with
  | nil =>
    by_cases hv : v = Memory.unlisted <;> simp [writeByte, wfFrom, hv, hlo, hx]
  | cons c m ih =>
    obtain ⟨a, b⟩ := c
    simp only [wfFrom, Bool.and_eq_true, decide_eq_true_eq, bne_iff_ne] at h
    obtain ⟨⟨⟨ha, hb⟩, hne⟩, hm⟩ := h
    simp only [writeByte]
    split_ifs with hxa hv hlt hv
    · exact wfFrom_mono hm (by omega)
    · subst hxa; simp [wfFrom, ha, hb, hv, hm]
    · simp [wfFrom, ha, hb, hne, hm]
    · have : x + 1 ≤ a := by omega
      simp [wfFrom, hlo, hx, hv, this, hb, hne, hm]
    · simp [wfFrom, ha, hb, hne, ih hm (by omega)]

/-- A write of a byte that exists keeps the canonical form. -/
theorem Memory.writeByte_wf {m : Memory} {x : Nat} (v : Byte) (h : m.wf = true) (hx : x < addressSpace) :
    (m.writeByte x v).wf = true := writeByte_wfFrom v h (Nat.zero_le x) hx

theorem Memory.readByte_writeByte_from {m : Memory} {lo : Nat} (x y : Nat) (v : Byte) (h : m.wfFrom lo = true) :
    (m.writeByte x v).readByte y = if y = x then v else m.readByte y := by
  induction m generalizing lo with
  | nil =>
    by_cases hv : v = Memory.unlisted <;> by_cases hy : y = x <;> simp [writeByte, readByte, hv, hy]
  | cons c m ih =>
    obtain ⟨a, b⟩ := c
    simp only [wfFrom, Bool.and_eq_true, decide_eq_true_eq, bne_iff_ne] at h
    obtain ⟨⟨⟨ha, hb⟩, hne⟩, hm⟩ := h
    have below : ∀ z, z ≤ a → Memory.readByte m z = Memory.unlisted := fun z hz => readByte_below hm (by omega)
    simp only [writeByte]
    by_cases hxa : x = a
    · subst hxa
      by_cases hv : v = Memory.unlisted <;> by_cases hy : y = x
      · simp [hv, hy, below]
      · by_cases hlt : y < x <;> simp [hv, hy, hlt, readByte, below y, Nat.le_of_lt]
      · simp [hv, hy, readByte]
      · simp [hv, hy, readByte]
    · by_cases hlt : x < a
      · by_cases hv : v = Memory.unlisted <;> by_cases hy : y = x
        · simp [hv, hy, hxa, hlt, readByte]
        · simp [hv, hy, hxa, hlt]
        · simp [hv, hy, hxa, hlt, readByte]
        · by_cases hyx : y < x
          · simp [hv, hy, hxa, hlt, readByte, hyx, show y ≠ a by omega, show y < a by omega]
          · simp [hv, hy, hxa, hlt, readByte, hyx]
      · by_cases hya : y = a
        · simp [hxa, hlt, hya, readByte, show a ≠ x by omega]
        · by_cases hyl : y < a
          · simp [hxa, hlt, hya, hyl, readByte, show y ≠ x by omega]
          · simp [hxa, hlt, hya, hyl, readByte, ih hm]

/-- A byte reads as it was last written, and a write leaves every other byte alone. -/
theorem Memory.readByte_writeByte {m : Memory} (x y : Nat) (v : Byte) (h : m.wf = true) :
    (m.writeByte x v).readByte y = if y = x then v else m.readByte y := readByte_writeByte_from x y v h

/-- Writing a range of bytes that exist keeps the canonical form. -/
theorem Memory.writeBytes_wf {m : Memory} {a : Nat} (bs : List Byte) (h : m.wf = true)
    (ha : a + bs.length ≤ addressSpace) : (m.writeBytes a bs).wf = true := by
  induction bs generalizing m a with
  | nil => exact h
  | cons v vs ih =>
    simp only [List.length_cons] at ha
    exact ih (writeByte_wf v h (by omega)) (by omega)

/-- Inside a written range a byte reads as written, outside as before. -/
theorem Memory.readByte_writeBytes {m : Memory} (a x : Nat) (bs : List Byte) (h : m.wf = true)
    (ha : a + bs.length ≤ addressSpace) :
    (m.writeBytes a bs).readByte x =
      if a ≤ x ∧ x < a + bs.length then bs.getD (x - a) 0 else m.readByte x := by
  induction bs generalizing m a with
  | nil => simp [writeBytes]
  | cons v vs ih =>
    simp only [List.length_cons] at ha
    simp only [writeBytes]
    rw [ih (a + 1) (writeByte_wf v h (by omega)) (by omega), readByte_writeByte a x v h]
    by_cases hx : x = a
    · subst hx; simp
    · by_cases hin : a + 1 ≤ x ∧ x < a + 1 + vs.length
      · have : x - a = (x - (a + 1)) + 1 := by omega
        rw [if_pos hin, if_pos (by simp only [List.length_cons]; omega), this, List.getD_cons_succ]
      · rw [if_neg hin, if_neg hx, if_neg (by simp only [List.length_cons]; omega)]

@[simp] theorem Memory.readBytes_length (m : Memory) (a n : Nat) : (m.readBytes a n).length = n := by
  simp [readBytes]

theorem Memory.readBytes_getD (m : Memory) (a n i : Nat) (d : Byte) (h : i < n) :
    (m.readBytes a n).getD i d = m.readByte (a + i) := by
  simp [readBytes, List.getD_eq_getElem?_getD, h]

/-- Writing bytes except some, in a range that exists, keeps the canonical form. -/
theorem Memory.writeBytesExcept_wf (keep : Nat → Bool) {m : Memory} {a : Nat} (bs : List Byte) (h : m.wf = true)
    (ha : a + bs.length ≤ addressSpace) : (m.writeBytesExcept keep a bs).wf = true := by
  induction bs generalizing m a with
  | nil => exact h
  | cons v vs ih =>
    simp only [List.length_cons] at ha
    simp only [writeBytesExcept]
    split_ifs
    · exact ih h (by omega)
    · exact ih (writeByte_wf v h (by omega)) (by omega)

/-- Inside the range a byte that is not kept reads as written; every other byte reads as before. -/
theorem Memory.readByte_writeBytesExcept (keep : Nat → Bool) {m : Memory} (a x : Nat) (bs : List Byte)
    (h : m.wf = true) (ha : a + bs.length ≤ addressSpace) :
    (m.writeBytesExcept keep a bs).readByte x =
      if (a ≤ x ∧ x < a + bs.length) ∧ keep x = false then bs.getD (x - a) 0 else m.readByte x := by
  induction bs generalizing m a with
  | nil => simp [writeBytesExcept]
  | cons v vs ih =>
    simp only [List.length_cons] at ha
    simp only [writeBytesExcept]
    have hwf : (if keep a then m else m.writeByte a v).wf = true := by
      split_ifs
      · exact h
      · exact writeByte_wf v h (by omega)
    rw [ih (a + 1) hwf (by omega)]
    by_cases hx : x = a
    · subst hx
      cases hw : keep x <;> simp [readByte_writeByte, h]
    · have hsame : (if keep a then m else m.writeByte a v).readByte x = m.readByte x := by
        split_ifs
        · rfl
        · rw [readByte_writeByte a x v h, if_neg hx]
      by_cases hin : a + 1 ≤ x ∧ x < a + 1 + vs.length
      · have : x - a = (x - (a + 1)) + 1 := by omega
        rw [hsame, this, List.getD_cons_succ]
        have hin' : a ≤ x ∧ x < a + (v :: vs).length := by simp only [List.length_cons]; omega
        simp only [hin, hin', true_and, and_self]
      · rw [hsame, if_neg (fun hc => hin hc.1), if_neg]
        simp only [List.length_cons]
        intro hc
        omega

end Sys2Proof.Machine
end

