-- ==== Sys2Proof/Laws/State.lean ====
section
/-! SUPPORT. One lemma per field per named update of the state, each true by unfolding, so that no proof unfolds a
record update. -/

namespace Sys2Proof.Machine

variable (s : State)

/-! ### `State.accept` -/

@[simp] theorem State.accept_engine (w : Word) (k : Nat) : (s.accept w k).engine = .run w k := rfl
@[simp] theorem State.accept_status (w : Word) (k : Nat) : (s.accept w k).status = s.status.accept := rfl
@[simp] theorem State.accept_errAddr (w : Word) (k : Nat) : (s.accept w k).errAddr = s.errAddr := rfl
@[simp] theorem State.accept_srcAddr (w : Word) (k : Nat) : (s.accept w k).srcAddr = s.srcAddr := rfl
@[simp] theorem State.accept_srcLen (w : Word) (k : Nat) : (s.accept w k).srcLen = s.srcLen := rfl
@[simp] theorem State.accept_dstAddr (w : Word) (k : Nat) : (s.accept w k).dstAddr = s.dstAddr := rfl
@[simp] theorem State.accept_dstCap (w : Word) (k : Nat) : (s.accept w k).dstCap = s.dstCap := rfl
@[simp] theorem State.accept_resultLen (w : Word) (k : Nat) : (s.accept w k).resultLen = s.resultLen := rfl
@[simp] theorem State.accept_resultOff (w : Word) (k : Nat) : (s.accept w k).resultOff = s.resultOff := rfl
@[simp] theorem State.accept_arg (w : Word) (k : Nat) : (s.accept w k).arg = s.arg := rfl
@[simp] theorem State.accept_dinLo (w : Word) (k : Nat) : (s.accept w k).dinLo = s.dinLo := rfl
@[simp] theorem State.accept_dinHi (w : Word) (k : Nat) : (s.accept w k).dinHi = s.dinHi := rfl
@[simp] theorem State.accept_doutLo (w : Word) (k : Nat) : (s.accept w k).doutLo = s.doutLo := rfl
@[simp] theorem State.accept_doutHi (w : Word) (k : Nat) : (s.accept w k).doutHi = s.doutHi := rfl
@[simp] theorem State.accept_key (w : Word) (k : Nat) : (s.accept w k).key = s.key := rfl
@[simp] theorem State.accept_fill (w : Word) (k : Nat) : (s.accept w k).fill = s.fill := rfl
@[simp] theorem State.accept_tbl (w : Word) (k : Nat) : (s.accept w k).tbl = s.tbl := rfl
@[simp] theorem State.accept_seq (w : Word) (k : Nat) : (s.accept w k).seq = s.seq := rfl
@[simp] theorem State.accept_mem (w : Word) (k : Nat) : (s.accept w k).mem = s.mem := rfl
@[simp] theorem State.accept_plat (w : Word) (k : Nat) : (s.accept w k).plat = s.plat := rfl
@[simp] theorem State.accept_draws (w : Word) (k : Nat) : (s.accept w k).draws = s.draws := rfl
@[simp] theorem State.accept_waits (w : Word) (k : Nat) : (s.accept w k).waits = s.waits := rfl
@[simp] theorem State.accept_coherence (w : Word) (k : Nat) : (s.accept w k).coherence = s.coherence := rfl
@[simp] theorem State.accept_prog (w : Word) (k : Nat) : (s.accept w k).prog = s.prog := rfl
@[simp] theorem State.accept_hpc (w : Word) (k : Nat) : (s.accept w k).hpc = s.hpc := rfl
@[simp] theorem State.accept_names (w : Word) (k : Nat) : (s.accept w k).names = s.names := rfl

/-! ### `State.complete` -/

@[simp] theorem State.complete_engine (r : Bool) : (s.complete r).engine = .idle := rfl
@[simp] theorem State.complete_status (r : Bool) : (s.complete r).status = s.status.complete 0 r := rfl
@[simp] theorem State.complete_errAddr (r : Bool) : (s.complete r).errAddr = s.errAddr := rfl
@[simp] theorem State.complete_srcAddr (r : Bool) : (s.complete r).srcAddr = s.srcAddr := rfl
@[simp] theorem State.complete_srcLen (r : Bool) : (s.complete r).srcLen = s.srcLen := rfl
@[simp] theorem State.complete_dstAddr (r : Bool) : (s.complete r).dstAddr = s.dstAddr := rfl
@[simp] theorem State.complete_dstCap (r : Bool) : (s.complete r).dstCap = s.dstCap := rfl
@[simp] theorem State.complete_resultLen (r : Bool) : (s.complete r).resultLen = s.resultLen := rfl
@[simp] theorem State.complete_resultOff (r : Bool) : (s.complete r).resultOff = s.resultOff := rfl
@[simp] theorem State.complete_arg (r : Bool) : (s.complete r).arg = s.arg := rfl
@[simp] theorem State.complete_dinLo (r : Bool) : (s.complete r).dinLo = s.dinLo := rfl
@[simp] theorem State.complete_dinHi (r : Bool) : (s.complete r).dinHi = s.dinHi := rfl
@[simp] theorem State.complete_doutLo (r : Bool) : (s.complete r).doutLo = s.doutLo := rfl
@[simp] theorem State.complete_doutHi (r : Bool) : (s.complete r).doutHi = s.doutHi := rfl
@[simp] theorem State.complete_key (r : Bool) : (s.complete r).key = s.key := rfl
@[simp] theorem State.complete_fill (r : Bool) : (s.complete r).fill = s.fill := rfl
@[simp] theorem State.complete_tbl (r : Bool) : (s.complete r).tbl = s.tbl := rfl
@[simp] theorem State.complete_seq (r : Bool) : (s.complete r).seq = s.seq := rfl
@[simp] theorem State.complete_mem (r : Bool) : (s.complete r).mem = s.mem := rfl
@[simp] theorem State.complete_plat (r : Bool) : (s.complete r).plat = s.plat := rfl
@[simp] theorem State.complete_draws (r : Bool) : (s.complete r).draws = s.draws := rfl
@[simp] theorem State.complete_waits (r : Bool) : (s.complete r).waits = s.waits := rfl
@[simp] theorem State.complete_coherence (r : Bool) : (s.complete r).coherence = s.coherence := rfl
@[simp] theorem State.complete_prog (r : Bool) : (s.complete r).prog = s.prog := rfl
@[simp] theorem State.complete_hpc (r : Bool) : (s.complete r).hpc = s.hpc := rfl
@[simp] theorem State.complete_names (r : Bool) : (s.complete r).names = s.names := rfl

/-! ### `State.raiseError` -/

@[simp] theorem State.raiseError_engine (e : CommandError) : (s.raiseError e).engine = .idle := rfl
@[simp] theorem State.raiseError_status (e : CommandError) : (s.raiseError e).status = s.status.complete e.code false := rfl
@[simp] theorem State.raiseError_errAddr (e : CommandError) : (s.raiseError e).errAddr = e.errAddr s.errAddr := rfl
@[simp] theorem State.raiseError_srcAddr (e : CommandError) : (s.raiseError e).srcAddr = s.srcAddr := rfl
@[simp] theorem State.raiseError_srcLen (e : CommandError) : (s.raiseError e).srcLen = s.srcLen := rfl
@[simp] theorem State.raiseError_dstAddr (e : CommandError) : (s.raiseError e).dstAddr = s.dstAddr := rfl
@[simp] theorem State.raiseError_dstCap (e : CommandError) : (s.raiseError e).dstCap = s.dstCap := rfl
@[simp] theorem State.raiseError_resultLen (e : CommandError) : (s.raiseError e).resultLen = s.resultLen := rfl
@[simp] theorem State.raiseError_resultOff (e : CommandError) : (s.raiseError e).resultOff = s.resultOff := rfl
@[simp] theorem State.raiseError_arg (e : CommandError) : (s.raiseError e).arg = s.arg := rfl
@[simp] theorem State.raiseError_dinLo (e : CommandError) : (s.raiseError e).dinLo = s.dinLo := rfl
@[simp] theorem State.raiseError_dinHi (e : CommandError) : (s.raiseError e).dinHi = s.dinHi := rfl
@[simp] theorem State.raiseError_doutLo (e : CommandError) : (s.raiseError e).doutLo = s.doutLo := rfl
@[simp] theorem State.raiseError_doutHi (e : CommandError) : (s.raiseError e).doutHi = s.doutHi := rfl
@[simp] theorem State.raiseError_key (e : CommandError) : (s.raiseError e).key = s.key := rfl
@[simp] theorem State.raiseError_fill (e : CommandError) : (s.raiseError e).fill = s.fill := rfl
@[simp] theorem State.raiseError_tbl (e : CommandError) : (s.raiseError e).tbl = s.tbl := rfl
@[simp] theorem State.raiseError_seq (e : CommandError) : (s.raiseError e).seq = s.seq := rfl
@[simp] theorem State.raiseError_mem (e : CommandError) : (s.raiseError e).mem = s.mem := rfl
@[simp] theorem State.raiseError_plat (e : CommandError) : (s.raiseError e).plat = s.plat := rfl
@[simp] theorem State.raiseError_draws (e : CommandError) : (s.raiseError e).draws = s.draws := rfl
@[simp] theorem State.raiseError_waits (e : CommandError) : (s.raiseError e).waits = s.waits := rfl
@[simp] theorem State.raiseError_coherence (e : CommandError) : (s.raiseError e).coherence = s.coherence := rfl
@[simp] theorem State.raiseError_prog (e : CommandError) : (s.raiseError e).prog = s.prog := rfl
@[simp] theorem State.raiseError_hpc (e : CommandError) : (s.raiseError e).hpc = s.hpc := rfl
@[simp] theorem State.raiseError_names (e : CommandError) : (s.raiseError e).names = s.names := rfl

/-! ### `State.startCipher` -/

@[simp] theorem State.startCipher_engine : (s.startCipher).engine = s.engine := rfl
@[simp] theorem State.startCipher_status : (s.startCipher).status = s.status := rfl
@[simp] theorem State.startCipher_errAddr : (s.startCipher).errAddr = s.errAddr := rfl
@[simp] theorem State.startCipher_srcAddr : (s.startCipher).srcAddr = s.srcAddr := rfl
@[simp] theorem State.startCipher_srcLen : (s.startCipher).srcLen = s.srcLen := rfl
@[simp] theorem State.startCipher_dstAddr : (s.startCipher).dstAddr = s.dstAddr := rfl
@[simp] theorem State.startCipher_dstCap : (s.startCipher).dstCap = s.dstCap := rfl
@[simp] theorem State.startCipher_resultLen : (s.startCipher).resultLen = s.resultLen := rfl
@[simp] theorem State.startCipher_resultOff : (s.startCipher).resultOff = s.resultOff := rfl
@[simp] theorem State.startCipher_arg : (s.startCipher).arg = s.arg := rfl
@[simp] theorem State.startCipher_dinLo : (s.startCipher).dinLo = s.dinLo := rfl
@[simp] theorem State.startCipher_dinHi : (s.startCipher).dinHi = s.dinHi := rfl
@[simp] theorem State.startCipher_doutLo : (s.startCipher).doutLo = s.doutLo := rfl
@[simp] theorem State.startCipher_doutHi : (s.startCipher).doutHi = s.doutHi := rfl
@[simp] theorem State.startCipher_key : (s.startCipher).key = s.key := rfl
@[simp] theorem State.startCipher_fill : (s.startCipher).fill = s.fill := rfl
@[simp] theorem State.startCipher_tbl : (s.startCipher).tbl = s.tbl := rfl
@[simp] theorem State.startCipher_seq : (s.startCipher).seq = s.seq.start := rfl
@[simp] theorem State.startCipher_mem : (s.startCipher).mem = s.mem := rfl
@[simp] theorem State.startCipher_plat : (s.startCipher).plat = s.plat := rfl
@[simp] theorem State.startCipher_draws : (s.startCipher).draws = s.draws := rfl
@[simp] theorem State.startCipher_waits : (s.startCipher).waits = s.waits := rfl
@[simp] theorem State.startCipher_coherence : (s.startCipher).coherence = s.coherence := rfl
@[simp] theorem State.startCipher_prog : (s.startCipher).prog = s.prog := rfl
@[simp] theorem State.startCipher_hpc : (s.startCipher).hpc = s.hpc := rfl
@[simp] theorem State.startCipher_names : (s.startCipher).names = s.names := rfl

/-! ### `State.scrambleDestination` -/

@[simp] theorem State.scrambleDestination_engine (n : Nat) : (s.scrambleDestination n).engine = s.engine := rfl
@[simp] theorem State.scrambleDestination_status (n : Nat) : (s.scrambleDestination n).status = s.status := rfl
@[simp] theorem State.scrambleDestination_errAddr (n : Nat) : (s.scrambleDestination n).errAddr = s.errAddr := rfl
@[simp] theorem State.scrambleDestination_srcAddr (n : Nat) : (s.scrambleDestination n).srcAddr = s.srcAddr := rfl
@[simp] theorem State.scrambleDestination_srcLen (n : Nat) : (s.scrambleDestination n).srcLen = s.srcLen := rfl
@[simp] theorem State.scrambleDestination_dstAddr (n : Nat) : (s.scrambleDestination n).dstAddr = s.dstAddr := rfl
@[simp] theorem State.scrambleDestination_dstCap (n : Nat) : (s.scrambleDestination n).dstCap = s.dstCap := rfl
@[simp] theorem State.scrambleDestination_resultLen (n : Nat) : (s.scrambleDestination n).resultLen = s.resultLen := rfl
@[simp] theorem State.scrambleDestination_resultOff (n : Nat) : (s.scrambleDestination n).resultOff = s.resultOff := rfl
@[simp] theorem State.scrambleDestination_arg (n : Nat) : (s.scrambleDestination n).arg = s.arg := rfl
@[simp] theorem State.scrambleDestination_dinLo (n : Nat) : (s.scrambleDestination n).dinLo = s.dinLo := rfl
@[simp] theorem State.scrambleDestination_dinHi (n : Nat) : (s.scrambleDestination n).dinHi = s.dinHi := rfl
@[simp] theorem State.scrambleDestination_doutLo (n : Nat) : (s.scrambleDestination n).doutLo = s.doutLo := rfl
@[simp] theorem State.scrambleDestination_doutHi (n : Nat) : (s.scrambleDestination n).doutHi = s.doutHi := rfl
@[simp] theorem State.scrambleDestination_key (n : Nat) : (s.scrambleDestination n).key = s.key := rfl
@[simp] theorem State.scrambleDestination_fill (n : Nat) : (s.scrambleDestination n).fill = s.fill := rfl
@[simp] theorem State.scrambleDestination_tbl (n : Nat) : (s.scrambleDestination n).tbl = s.tbl := rfl
@[simp] theorem State.scrambleDestination_seq (n : Nat) : (s.scrambleDestination n).seq = s.seq := rfl
@[simp] theorem State.scrambleDestination_mem (n : Nat) : (s.scrambleDestination n).mem =
    s.mem.writeBytesExcept s.inSource s.dstAddr.toNat (s.freeBytes (s.destinationSize n)) := rfl
@[simp] theorem State.scrambleDestination_plat (n : Nat) : (s.scrambleDestination n).plat = s.plat := rfl
@[simp] theorem State.scrambleDestination_draws (n : Nat) : (s.scrambleDestination n).draws =
    s.draws + s.destinationSize n := rfl
@[simp] theorem State.scrambleDestination_waits (n : Nat) : (s.scrambleDestination n).waits = s.waits := rfl
@[simp] theorem State.scrambleDestination_coherence (n : Nat) : (s.scrambleDestination n).coherence =
    .engineWrote s.dstAddr.toNat (s.destinationSize n) :: s.coherence := rfl
@[simp] theorem State.scrambleDestination_prog (n : Nat) : (s.scrambleDestination n).prog = s.prog := rfl
@[simp] theorem State.scrambleDestination_hpc (n : Nat) : (s.scrambleDestination n).hpc = s.hpc := rfl
@[simp] theorem State.scrambleDestination_names (n : Nat) : (s.scrambleDestination n).names = s.names := rfl

/-! ### `State.completeSwap` -/

@[simp] theorem State.completeSwap_engine (r : DWord) : (s.completeSwap r).engine = .idle := rfl
@[simp] theorem State.completeSwap_status (r : DWord) : (s.completeSwap r).status = s.status.complete 0 false := rfl
@[simp] theorem State.completeSwap_errAddr (r : DWord) : (s.completeSwap r).errAddr = s.errAddr := rfl
@[simp] theorem State.completeSwap_srcAddr (r : DWord) : (s.completeSwap r).srcAddr = s.srcAddr := rfl
@[simp] theorem State.completeSwap_srcLen (r : DWord) : (s.completeSwap r).srcLen = s.srcLen := rfl
@[simp] theorem State.completeSwap_dstAddr (r : DWord) : (s.completeSwap r).dstAddr = s.dstAddr := rfl
@[simp] theorem State.completeSwap_dstCap (r : DWord) : (s.completeSwap r).dstCap = s.dstCap := rfl
@[simp] theorem State.completeSwap_resultLen (r : DWord) : (s.completeSwap r).resultLen = s.resultLen := rfl
@[simp] theorem State.completeSwap_resultOff (r : DWord) : (s.completeSwap r).resultOff = s.resultOff := rfl
@[simp] theorem State.completeSwap_arg (r : DWord) : (s.completeSwap r).arg = s.arg := rfl
@[simp] theorem State.completeSwap_dinLo (r : DWord) : (s.completeSwap r).dinLo = s.dinLo := rfl
@[simp] theorem State.completeSwap_dinHi (r : DWord) : (s.completeSwap r).dinHi = s.dinHi := rfl
@[simp] theorem State.completeSwap_doutLo (r : DWord) : (s.completeSwap r).doutLo = r.extractLsb' 0 32 := rfl
@[simp] theorem State.completeSwap_doutHi (r : DWord) : (s.completeSwap r).doutHi = r.extractLsb' 32 32 := rfl
@[simp] theorem State.completeSwap_key (r : DWord) : (s.completeSwap r).key = s.key := rfl
@[simp] theorem State.completeSwap_fill (r : DWord) : (s.completeSwap r).fill = s.fill := rfl
@[simp] theorem State.completeSwap_tbl (r : DWord) : (s.completeSwap r).tbl = s.tbl := rfl
@[simp] theorem State.completeSwap_seq (r : DWord) : (s.completeSwap r).seq = s.seq := rfl
@[simp] theorem State.completeSwap_mem (r : DWord) : (s.completeSwap r).mem = s.mem := rfl
@[simp] theorem State.completeSwap_plat (r : DWord) : (s.completeSwap r).plat = s.plat := rfl
@[simp] theorem State.completeSwap_draws (r : DWord) : (s.completeSwap r).draws = s.draws := rfl
@[simp] theorem State.completeSwap_waits (r : DWord) : (s.completeSwap r).waits = s.waits := rfl
@[simp] theorem State.completeSwap_coherence (r : DWord) : (s.completeSwap r).coherence = s.coherence := rfl
@[simp] theorem State.completeSwap_prog (r : DWord) : (s.completeSwap r).prog = s.prog := rfl
@[simp] theorem State.completeSwap_hpc (r : DWord) : (s.completeSwap r).hpc = s.hpc := rfl
@[simp] theorem State.completeSwap_names (r : DWord) : (s.completeSwap r).names = s.names := rfl

/-! ### `State.completeLength` -/

@[simp] theorem State.completeLength_engine (v : Int) (o : Nat) : (s.completeLength v o).engine = .idle := rfl
@[simp] theorem State.completeLength_status (v : Int) (o : Nat) : (s.completeLength v o).status = s.status.complete 0 (lengthOutOfRange v) := rfl
@[simp] theorem State.completeLength_errAddr (v : Int) (o : Nat) : (s.completeLength v o).errAddr = s.errAddr := rfl
@[simp] theorem State.completeLength_srcAddr (v : Int) (o : Nat) : (s.completeLength v o).srcAddr = s.srcAddr := rfl
@[simp] theorem State.completeLength_srcLen (v : Int) (o : Nat) : (s.completeLength v o).srcLen = s.srcLen := rfl
@[simp] theorem State.completeLength_dstAddr (v : Int) (o : Nat) : (s.completeLength v o).dstAddr = s.dstAddr := rfl
@[simp] theorem State.completeLength_dstCap (v : Int) (o : Nat) : (s.completeLength v o).dstCap = s.dstCap := rfl
@[simp] theorem State.completeLength_resultLen (v : Int) (o : Nat) : (s.completeLength v o).resultLen = BitVec.ofInt 32 v := rfl
@[simp] theorem State.completeLength_resultOff (v : Int) (o : Nat) : (s.completeLength v o).resultOff = BitVec.ofNat 32 o := rfl
@[simp] theorem State.completeLength_arg (v : Int) (o : Nat) : (s.completeLength v o).arg = s.arg := rfl
@[simp] theorem State.completeLength_dinLo (v : Int) (o : Nat) : (s.completeLength v o).dinLo = s.dinLo := rfl
@[simp] theorem State.completeLength_dinHi (v : Int) (o : Nat) : (s.completeLength v o).dinHi = s.dinHi := rfl
@[simp] theorem State.completeLength_doutLo (v : Int) (o : Nat) : (s.completeLength v o).doutLo = s.doutLo := rfl
@[simp] theorem State.completeLength_doutHi (v : Int) (o : Nat) : (s.completeLength v o).doutHi = s.doutHi := rfl
@[simp] theorem State.completeLength_key (v : Int) (o : Nat) : (s.completeLength v o).key = s.key := rfl
@[simp] theorem State.completeLength_fill (v : Int) (o : Nat) : (s.completeLength v o).fill = s.fill := rfl
@[simp] theorem State.completeLength_tbl (v : Int) (o : Nat) : (s.completeLength v o).tbl = s.tbl := rfl
@[simp] theorem State.completeLength_seq (v : Int) (o : Nat) : (s.completeLength v o).seq = s.seq := rfl
@[simp] theorem State.completeLength_mem (v : Int) (o : Nat) : (s.completeLength v o).mem = s.mem := rfl
@[simp] theorem State.completeLength_plat (v : Int) (o : Nat) : (s.completeLength v o).plat = s.plat := rfl
@[simp] theorem State.completeLength_draws (v : Int) (o : Nat) : (s.completeLength v o).draws = s.draws := rfl
@[simp] theorem State.completeLength_waits (v : Int) (o : Nat) : (s.completeLength v o).waits = s.waits := rfl
@[simp] theorem State.completeLength_coherence (v : Int) (o : Nat) : (s.completeLength v o).coherence = s.coherence := rfl
@[simp] theorem State.completeLength_prog (v : Int) (o : Nat) : (s.completeLength v o).prog = s.prog := rfl
@[simp] theorem State.completeLength_hpc (v : Int) (o : Nat) : (s.completeLength v o).hpc = s.hpc := rfl
@[simp] theorem State.completeLength_names (v : Int) (o : Nat) : (s.completeLength v o).names = s.names := rfl

/-! ### `State.hostRead` -/

@[simp] theorem State.hostRead_engine (off : BitVec 12) (wd : Width) (x : Nat) : (s.hostRead off wd x).engine = s.engine := rfl
@[simp] theorem State.hostRead_status (off : BitVec 12) (wd : Width) (x : Nat) : (s.hostRead off wd x).status = s.status := rfl
@[simp] theorem State.hostRead_errAddr (off : BitVec 12) (wd : Width) (x : Nat) : (s.hostRead off wd x).errAddr = s.errAddr := rfl
@[simp] theorem State.hostRead_srcAddr (off : BitVec 12) (wd : Width) (x : Nat) : (s.hostRead off wd x).srcAddr = s.srcAddr := rfl
@[simp] theorem State.hostRead_srcLen (off : BitVec 12) (wd : Width) (x : Nat) : (s.hostRead off wd x).srcLen = s.srcLen := rfl
@[simp] theorem State.hostRead_dstAddr (off : BitVec 12) (wd : Width) (x : Nat) : (s.hostRead off wd x).dstAddr = s.dstAddr := rfl
@[simp] theorem State.hostRead_dstCap (off : BitVec 12) (wd : Width) (x : Nat) : (s.hostRead off wd x).dstCap = s.dstCap := rfl
@[simp] theorem State.hostRead_resultLen (off : BitVec 12) (wd : Width) (x : Nat) : (s.hostRead off wd x).resultLen = s.resultLen := rfl
@[simp] theorem State.hostRead_resultOff (off : BitVec 12) (wd : Width) (x : Nat) : (s.hostRead off wd x).resultOff = s.resultOff := rfl
@[simp] theorem State.hostRead_arg (off : BitVec 12) (wd : Width) (x : Nat) : (s.hostRead off wd x).arg = s.arg := rfl
@[simp] theorem State.hostRead_dinLo (off : BitVec 12) (wd : Width) (x : Nat) : (s.hostRead off wd x).dinLo = s.dinLo := rfl
@[simp] theorem State.hostRead_dinHi (off : BitVec 12) (wd : Width) (x : Nat) : (s.hostRead off wd x).dinHi = s.dinHi := rfl
@[simp] theorem State.hostRead_doutLo (off : BitVec 12) (wd : Width) (x : Nat) : (s.hostRead off wd x).doutLo = s.doutLo := rfl
@[simp] theorem State.hostRead_doutHi (off : BitVec 12) (wd : Width) (x : Nat) : (s.hostRead off wd x).doutHi = s.doutHi := rfl
@[simp] theorem State.hostRead_key (off : BitVec 12) (wd : Width) (x : Nat) : (s.hostRead off wd x).key = s.key := rfl
@[simp] theorem State.hostRead_fill (off : BitVec 12) (wd : Width) (x : Nat) : (s.hostRead off wd x).fill = s.fill := rfl
@[simp] theorem State.hostRead_tbl (off : BitVec 12) (wd : Width) (x : Nat) : (s.hostRead off wd x).tbl = s.tbl := rfl
@[simp] theorem State.hostRead_seq (off : BitVec 12) (wd : Width) (x : Nat) : (s.hostRead off wd x).seq = s.seq := rfl
@[simp] theorem State.hostRead_mem (off : BitVec 12) (wd : Width) (x : Nat) : (s.hostRead off wd x).mem = s.mem := rfl
@[simp] theorem State.hostRead_plat (off : BitVec 12) (wd : Width) (x : Nat) : (s.hostRead off wd x).plat = s.plat := rfl
@[simp] theorem State.hostRead_draws (off : BitVec 12) (wd : Width) (x : Nat) : (s.hostRead off wd x).draws = if accessDefined s.plat off wd then s.draws else s.draws + 1 := rfl
@[simp] theorem State.hostRead_waits (off : BitVec 12) (wd : Width) (x : Nat) : (s.hostRead off wd x).waits = s.waits := rfl
@[simp] theorem State.hostRead_coherence (off : BitVec 12) (wd : Width) (x : Nat) : (s.hostRead off wd x).coherence = s.coherence := rfl
@[simp] theorem State.hostRead_prog (off : BitVec 12) (wd : Width) (x : Nat) : (s.hostRead off wd x).prog = s.prog := rfl
@[simp] theorem State.hostRead_hpc (off : BitVec 12) (wd : Width) (x : Nat) : (s.hostRead off wd x).hpc = s.hpc := rfl
@[simp] theorem State.hostRead_names (off : BitVec 12) (wd : Width) (x : Nat) : (s.hostRead off wd x).names = (x, .word (s.hostReadValue off wd)) :: s.names := rfl

/-! ### `State.resetRegisters` -/

@[simp] theorem State.resetRegisters_engine : (s.resetRegisters).engine = .idle := rfl
@[simp] theorem State.resetRegisters_status : (s.resetRegisters).status = Status.reset := rfl
@[simp] theorem State.resetRegisters_errAddr : (s.resetRegisters).errAddr = 0 := rfl
@[simp] theorem State.resetRegisters_srcAddr : (s.resetRegisters).srcAddr = 0 := rfl
@[simp] theorem State.resetRegisters_srcLen : (s.resetRegisters).srcLen = 0 := rfl
@[simp] theorem State.resetRegisters_dstAddr : (s.resetRegisters).dstAddr = 0 := rfl
@[simp] theorem State.resetRegisters_dstCap : (s.resetRegisters).dstCap = 0 := rfl
@[simp] theorem State.resetRegisters_resultLen : (s.resetRegisters).resultLen = 0 := rfl
@[simp] theorem State.resetRegisters_resultOff : (s.resetRegisters).resultOff = 0 := rfl
@[simp] theorem State.resetRegisters_arg : (s.resetRegisters).arg = 0 := rfl
@[simp] theorem State.resetRegisters_dinLo : (s.resetRegisters).dinLo = 0 := rfl
@[simp] theorem State.resetRegisters_dinHi : (s.resetRegisters).dinHi = 0 := rfl
@[simp] theorem State.resetRegisters_doutLo : (s.resetRegisters).doutLo = 0 := rfl
@[simp] theorem State.resetRegisters_doutHi : (s.resetRegisters).doutHi = 0 := rfl
@[simp] theorem State.resetRegisters_key : (s.resetRegisters).key = Vector.replicate 4 0 := rfl
@[simp] theorem State.resetRegisters_fill : (s.resetRegisters).fill = Vector.replicate 3 0 := rfl
@[simp] theorem State.resetRegisters_tbl : (s.resetRegisters).tbl = Vector.replicate 16 0 := rfl
@[simp] theorem State.resetRegisters_seq : (s.resetRegisters).seq = Sequencer.zero := rfl
@[simp] theorem State.resetRegisters_mem : (s.resetRegisters).mem = s.mem := rfl
@[simp] theorem State.resetRegisters_plat : (s.resetRegisters).plat = s.plat := rfl
@[simp] theorem State.resetRegisters_draws : (s.resetRegisters).draws = s.draws := rfl
@[simp] theorem State.resetRegisters_waits : (s.resetRegisters).waits = s.waits := rfl
@[simp] theorem State.resetRegisters_coherence : (s.resetRegisters).coherence = s.coherence := rfl
@[simp] theorem State.resetRegisters_prog : (s.resetRegisters).prog = s.prog := rfl
@[simp] theorem State.resetRegisters_hpc : (s.resetRegisters).hpc = s.hpc := rfl
@[simp] theorem State.resetRegisters_names : (s.resetRegisters).names = s.names := rfl

/-! ### STATUS -/

@[simp] theorem Status.accept_done (st : Status) : (st.accept).done = false := rfl
@[simp] theorem Status.accept_lrange (st : Status) : (st.accept).lrange = false := rfl
@[simp] theorem Status.accept_cmdLost (st : Status) : (st.accept).cmdLost = st.cmdLost := rfl
@[simp] theorem Status.accept_errCode (st : Status) : (st.accept).errCode = 0 := rfl
@[simp] theorem Status.complete_done (st : Status) (c : BitVec 4) (r : Bool) : (st.complete c r).done = true := rfl
@[simp] theorem Status.complete_lrange (st : Status) (c : BitVec 4) (r : Bool) : (st.complete c r).lrange = r := rfl
@[simp] theorem Status.complete_cmdLost (st : Status) (c : BitVec 4) (r : Bool) : (st.complete c r).cmdLost = st.cmdLost := rfl
@[simp] theorem Status.complete_errCode (st : Status) (c : BitVec 4) (r : Bool) : (st.complete c r).errCode = c := rfl

@[simp] theorem Status.hostWrite_done (st : Status) (w : Word) :
    (st.hostWrite w).done = (st.done && !w.getLsbD 1) := rfl
@[simp] theorem Status.hostWrite_cmdLost (st : Status) (w : Word) :
    (st.hostWrite w).cmdLost = (st.cmdLost && !w.getLsbD 4) := rfl
@[simp] theorem Status.hostWrite_lrange (st : Status) (w : Word) : (st.hostWrite w).lrange = st.lrange := rfl
@[simp] theorem Status.hostWrite_errCode (st : Status) (w : Word) : (st.hostWrite w).errCode = st.errCode := rfl

/-! ### BUSY is the engine's state -/

theorem State.busy_of_idle {s : State} (h : s.engine = .idle) : s.busy = false := by simp [State.busy, h]
theorem State.busy_of_run {s : State} {w : Word} {k : Nat} (h : s.engine = .run w k) : s.busy = true := by
  simp [State.busy, h]
theorem State.busy_eq_false {s : State} : s.busy = false ↔ s.engine = .idle := by
  cases h : s.engine <;> simp [State.busy, h]

end Sys2Proof.Machine
end

