-- ==== Sys2Proof/Laws/Ops.lean ====
section
/-! SUPPORT. One lemma per shared operation that says once everything it can do; later proofs cite these instead of
unfolding the operations. -/

namespace Sys2Proof.Machine

/-! ### Byte sequences -/

@[simp] theorem bytesOf64_length (w : DWord) : (bytesOf64 w).length = 8 := by simp [bytesOf64]

@[simp] theorem storeBlock_length (o : ByteOrder) (v : DWord) : (storeBlock o v).length = 8 := by
  simp [storeBlock]

theorem bytesOf64_getD (w : DWord) (j : Nat) (h : j < 8) : (bytesOf64 w).getD j 0 = w.extractLsb' (8 * j) 8 := by
  simp [bytesOf64, List.getD_eq_getElem?_getD, h]

@[simp] theorem State.freeBytes_length (s : State) (n : Nat) : (s.freeBytes n).length = n := by
  simp [State.freeBytes]

/-! ### Lengths and padding -/

theorem fillOf_range (n : Nat) : 3 ≤ fillOf n ∧ fillOf n ≤ 10 := by
  unfold fillOf; omega

theorem ctlen_dvd (n : Nat) : ctlen n % 8 = 0 := by
  unfold ctlen fillOf; omega

theorem hdroff_range (b : Byte) : 3 ≤ hdroff b ∧ hdroff b ≤ 10 := by
  have := (b.extractLsb' 0 3).isLt
  unfold hdroff; omega

@[simp] theorem pad_length (src : List Byte) (f : Vector Word 3) : (pad src f).length = ctlen src.length := by
  simp [pad]

@[simp] theorem State.encImage_length (s : State) : s.encImage.length = ctlen s.srcLen.toNat := by
  simp [State.encImage]

/-! ### Chaining -/

@[simp] theorem encStep_length (t : Vector Word 16) (k : Vector Word 4) (o : ByteOrder) (i : Nat) (q : Sequencer)
    (b : List Byte) : (encStep t k o i q b).2.length = 8 := by simp [encStep]

@[simp] theorem decStep_length (t : Vector Word 16) (k : Vector Word 4) (o : ByteOrder) (i : Nat) (q : Sequencer)
    (b : List Byte) : (decStep t k o i q b).2.length = 8 := by simp [decStep]

theorem chainBlocks_length {f : Nat → Sequencer → List Byte → Sequencer × List Byte}
    (hf : ∀ i q b, (f i q b).2.length = 8) (count i : Nat) (q : Sequencer) (bs : List Byte) :
    (chainBlocks f count i q bs).2.length = 8 * count := by
  induction count generalizing i q bs with
  | zero => rfl
  | succ n ih => simp only [chainBlocks, List.length_append, hf, ih]; omega

theorem encChain_length (t : Vector Word 16) (k : Vector Word 4) (p : List Byte) (o : ByteOrder)
    (h : p.length % 8 = 0) : (encChain t k p o).length = p.length := by
  rw [encChain, encChainFrom, chainBlocks_length (encStep_length t k o)]; omega

theorem decChain_length (t : Vector Word 16) (k : Vector Word 4) (c : List Byte) (o : ByteOrder)
    (h : c.length % 8 = 0) : (decChain t k c o).length = c.length := by
  rw [decChain, decChainFrom, chainBlocks_length (decStep_length t k o)]; omega

/-! ### Checks -/

theorem rangesOverlap_eq_false {a n d m : Nat} :
    rangesOverlap a n d m = false ↔ n = 0 ∨ m = 0 ∨ d + m ≤ a ∨ a + n ≤ d := by
  simp only [rangesOverlap, Bool.and_eq_false_iff, decide_eq_false_iff_not]; omega

/-- When the buffers of a command that writes `wlen` bytes pass every check. -/
theorem State.bufferCheck_eq_none {s : State} {wlen : Nat} :
    s.bufferCheck wlen = none ↔ wlen ≤ s.dstCap.toNat ∧ s.srcAddr.toNat + s.srcLen.toNat ≤ addressSpace ∧
      s.dstAddr.toNat + wlen ≤ addressSpace ∧
      rangesOverlap s.srcAddr.toNat s.srcLen.toNat s.dstAddr.toNat wlen = false := by
  simp only [State.bufferCheck]
  split_ifs with h1 h2 h3 <;> simp_all
  all_goals omega

/-- The error a buffer check gives, and when (R208). -/
theorem State.bufferCheck_cases (s : State) (wlen : Nat) :
    (s.bufferCheck wlen = some .dstCapacity ∧ s.dstCap.toNat < wlen) ∨
    (s.bufferCheck wlen = some .addrRange ∧ wlen ≤ s.dstCap.toNat ∧
      (addressSpace < s.srcAddr.toNat + s.srcLen.toNat ∨ addressSpace < s.dstAddr.toNat + wlen)) ∨
    (s.bufferCheck wlen = some .overlap ∧ wlen ≤ s.dstCap.toNat ∧
      s.srcAddr.toNat + s.srcLen.toNat ≤ addressSpace ∧ s.dstAddr.toNat + wlen ≤ addressSpace ∧
      rangesOverlap s.srcAddr.toNat s.srcLen.toNat s.dstAddr.toNat wlen = true) ∨
    s.bufferCheck wlen = none := by
  simp only [State.bufferCheck]
  split_ifs with h1 h2 h3
  · exact .inl ⟨rfl, h1⟩
  · exact .inr (.inl ⟨rfl, by omega, h2⟩)
  · exact .inr (.inr (.inl ⟨rfl, by omega, by omega, by omega, h3⟩))
  · exact .inr (.inr (.inr rfl))

/-- The decryption check is BAD_LENGTH, or the buffer check of a legal length (R202, R208). -/
theorem State.decCheck_cases (s : State) :
    (s.decCheck = some .badLength ∧ (s.srcLen.toNat < 16 ∨ s.srcLen.toNat % 8 ≠ 0)) ∨
    (s.decCheck = s.bufferCheck s.srcLen.toNat ∧ 16 ≤ s.srcLen.toNat ∧ s.srcLen.toNat % 8 = 0) := by
  simp only [State.decCheck]
  split_ifs with h
  · exact .inl ⟨rfl, h⟩
  · exact .inr ⟨rfl, by omega, by omega⟩

@[simp] theorem State.startCipher_encCheck (s : State) : s.startCipher.encCheck = s.encCheck := rfl
@[simp] theorem State.startCipher_decCheck (s : State) : s.startCipher.decCheck = s.decCheck := rfl
@[simp] theorem State.startCipher_encImage (s : State) : s.startCipher.encImage = s.encImage := rfl
@[simp] theorem State.startCipher_table (s : State) (x : TableSelect) : s.startCipher.table x = s.table x := by
  cases x <;> rfl

/-- No error code is above 6 (R207). -/
theorem CommandError.code_le (e : CommandError) : e.code.toNat ≤ 6 := by
  cases e <;> simp [CommandError.code]

/-- Only BUS_ERROR writes ERR_ADDR (R32). -/
theorem CommandError.errAddr_eq {e : CommandError} (h : ∀ a, e ≠ .busError a) (w : Word) : e.errAddr w = w := by
  cases e <;> first | rfl | exact absurd rfl (h _)

/-! ### The register window -/

/-- Every register stands at its own offset (R20). -/
@[simp] theorem regAt_regOffset (r : Reg) : regAt (regOffset r).toNat = r := by
  cases r with
  | key i | fill i | tbl i => revert i; decide
  | _ => rfl

/-- An offset that is not a multiple of 4 is reserved (R45). -/
theorem regAt_misaligned {o : Nat} (h : o % 4 ≠ 0) : regAt o = .reserved := by
  unfold regAt
  split <;> first | (exact absurd rfl h) | simp [h]

/-- A defined write acts on the register at its offset (R21). -/
theorem State.hostWrite_aligned {s : State} {off : BitVec 12} (h : s.plat.alignedAt off = true) (v : Word) :
    s.hostWrite off .w32 v = s.hostWriteReg (regAt off.toNat) v := by
  simp [State.hostWrite, accessDefined, h]

/-- A defined read names the register at its offset and draws nothing (R21). -/
theorem State.hostRead_aligned {s : State} {off : BitVec 12} (h : s.plat.alignedAt off = true) (x : Nat) :
    s.hostRead off .w32 x = { s with names := (x, .word (s.readReg (regAt off.toNat))) :: s.names } := by
  simp [State.hostRead, State.hostReadValue, accessDefined, h]

/-! ### Scrambled destinations -/

/-- The destination bytes that exist end at 2^32 at the latest. -/
theorem State.destinationSize_le (s : State) (wlen : Nat) :
    s.dstAddr.toNat + s.destinationSize wlen ≤ addressSpace ∧ s.destinationSize wlen ≤ wlen := by
  have := s.dstAddr.isLt
  simp only [State.destinationSize, addressSpace]
  omega

theorem State.freeBytes_getD (s : State) (n i : Nat) (h : i < n) :
    (s.freeBytes n).getD i 0 = Config.freeByte (s.draws + i) := by
  simp [State.freeBytes, List.getD_eq_getElem?_getD, h]

/-- A scrambled destination keeps memory canonical. -/
theorem State.scrambleDestination_wf (s : State) (wlen : Nat) (h : s.mem.wf = true) :
    (s.scrambleDestination wlen).mem.wf = true :=
  Memory.writeBytesExcept_wf _ _ h (by simpa using (s.destinationSize_le wlen).1)

/-- In a scrambled state each destination byte outside the source range is a free value of its own, and every other
byte reads as before (R210, R232). -/
theorem State.readByte_scrambleDestination (s : State) (wlen x : Nat) (h : s.mem.wf = true) :
    (s.scrambleDestination wlen).mem.readByte x =
      if (s.dstAddr.toNat ≤ x ∧ x < s.dstAddr.toNat + s.destinationSize wlen) ∧ s.inSource x = false then
        Config.freeByte (s.draws + (x - s.dstAddr.toNat))
      else s.mem.readByte x := by
  rw [State.scrambleDestination_mem, Memory.readByte_writeBytesExcept _ _ _ _ h
    (by simpa using (s.destinationSize_le wlen).1), State.freeBytes_length]
  split_ifs with hx
  · exact s.freeBytes_getD _ _ (by omega)
  · rfl

/-! ### The memory phase -/

theorem Platform.firstRefused_some {p : Platform} {xs : List Access} {x : Access}
    (h : p.firstRefused xs = some x) : x ∈ xs ∧ p.admits x.addr x.kind = false :=
  ⟨List.mem_of_find?_eq_some h, by simpa using List.find?_some h⟩

theorem Platform.firstRefused_none {p : Platform} {xs : List Access} :
    p.firstRefused xs = none ↔ ∀ x ∈ xs, p.admits x.addr x.kind = true := by
  simp [Platform.firstRefused, List.find?_eq_none]

/-- A memory phase ends with the first refused access, or writes the whole image and finishes. -/
theorem State.memoryPhase_cases (s : State) (xs : List Access) (g : Nat → Sequencer) (image : List Byte)
    (wlen : Nat) (finish : State → State) :
    (∃ x, s.plat.firstRefused xs = some x ∧ s.memoryPhase xs g image wlen finish =
      ({ s with seq := g x.blocks }.scrambleDestination wlen).raiseError (.busError x.addr)) ∨
    (s.plat.firstRefused xs = none ∧ s.memoryPhase xs g image wlen finish =
      finish { s with
        mem := s.mem.writeBytes s.dstAddr.toNat image
        seq := g (wlen / 8)
        coherence := .engineWrote s.dstAddr.toNat wlen :: s.coherence }) := by
  cases h : s.plat.firstRefused xs with
  | some x => exact .inl ⟨x, rfl, by simp [State.memoryPhase, h]⟩
  | none => exact .inr ⟨rfl, by simp [State.memoryPhase, h]⟩

/-! ### The cipher commands -/

/-- Everything an encryption can do: fail a check, end with BUS_ERROR, or write the chained image (R176). -/
theorem State.encrypt_cases (s : State) (x : TableSelect) (o : ByteOrder) :
    (∃ e, s.encCheck = some e ∧ s.encrypt x o = s.startCipher.raiseError e) ∨
    (s.encCheck = none ∧ ∃ y q,
      s.plat.firstRefused (encAccesses s.srcAddr.toNat s.srcLen.toNat s.dstAddr.toNat) = some y ∧
      s.encrypt x o = ({ s with seq := q }.scrambleDestination (ctlen s.srcLen.toNat)).raiseError
        (.busError y.addr)) ∨
    (s.encCheck = none ∧ s.plat.firstRefused (encAccesses s.srcAddr.toNat s.srcLen.toNat s.dstAddr.toNat) = none ∧
      ∃ q, s.encrypt x o = { s with
        mem := s.mem.writeBytes s.dstAddr.toNat (encChain (s.table x) s.key s.encImage o)
        seq := q
        coherence := .engineWrote s.dstAddr.toNat (ctlen s.srcLen.toNat) :: s.coherence }.completeLength
          (ctlen s.srcLen.toNat) (fillOf s.srcLen.toNat)) := by
  cases h : s.encCheck with
  | some e => exact .inl ⟨e, rfl, by simp [State.encrypt, h]⟩
  | none =>
    right
    simp only [State.encrypt, State.startCipher_encCheck, h]
    rcases State.memoryPhase_cases s.startCipher (encAccesses s.startCipher.srcAddr.toNat s.startCipher.srcLen.toNat
      s.startCipher.dstAddr.toNat) _ _ _ _ with ⟨y, hy, he⟩ | ⟨hy, he⟩
    · exact .inl ⟨trivial, y, _, hy, he⟩
    · exact .inr ⟨trivial, hy, _, he⟩

/-- Everything a decryption can do: fail a check, end with BUS_ERROR, or write the unchained image and take its
results from the first byte (R179). -/
theorem State.decrypt_cases (s : State) (x : TableSelect) (o : ByteOrder) :
    (∃ e, s.decCheck = some e ∧ s.decrypt x o = s.startCipher.raiseError e) ∨
    (s.decCheck = none ∧ ∃ y q,
      s.plat.firstRefused (decAccesses s.srcAddr.toNat s.srcLen.toNat s.dstAddr.toNat) = some y ∧
      s.decrypt x o = ({ s with seq := q }.scrambleDestination s.srcLen.toNat).raiseError
        (.busError y.addr)) ∨
    (s.decCheck = none ∧ s.plat.firstRefused (decAccesses s.srcAddr.toNat s.srcLen.toNat s.dstAddr.toNat) = none ∧
      ∃ q image, image = decChain (s.table x) s.key (s.mem.readBytes s.srcAddr.toNat s.srcLen.toNat) o ∧
        s.decrypt x o = { s with
          mem := s.mem.writeBytes s.dstAddr.toNat image
          seq := q
          coherence := .engineWrote s.dstAddr.toNat s.srcLen.toNat :: s.coherence }.completeLength
            (ptlen s.srcLen.toNat (image.headD 0)) (hdroff (image.headD 0))) := by
  cases h : s.decCheck with
  | some e => exact .inl ⟨e, rfl, by simp [State.decrypt, h]⟩
  | none =>
    right
    simp only [State.decrypt, State.startCipher_decCheck, h]
    rcases State.memoryPhase_cases s.startCipher (decAccesses s.startCipher.srcAddr.toNat s.startCipher.srcLen.toNat
      s.startCipher.dstAddr.toNat) _ _ _ _ with ⟨y, hy, he⟩ | ⟨hy, he⟩
    · exact .inl ⟨trivial, y, _, hy, he⟩
    · exact .inr ⟨trivial, hy, _, _, by simp, he⟩

/-! ### RESET -/

/-- What RESET finds in memory: nothing changes, or the running cipher command's destination is scrambled (R232). -/
theorem State.abandon_cases (s : State) :
    (s.runningWriteLength = none ∧ s.abandon = s) ∨
    ∃ wlen, s.runningWriteLength = some wlen ∧ s.abandon = s.scrambleDestination wlen := by
  unfold State.abandon
  cases h : s.runningWriteLength with
  | none => exact .inl ⟨rfl, rfl⟩
  | some wlen => exact .inr ⟨wlen, rfl, rfl⟩

/-! ### The host's turn and the step -/

/-- What a step is: the host's turn, or the engine's. -/
theorem step_cases (s : State) :
    (s.engine = .idle ∧ step s = s.hostTurn) ∨
    (∃ w, s.engine = .run w 0 ∧ step s = engineTurn w s) ∨
    (∃ w k, s.engine = .run w (k + 1) ∧ step s = { s with engine := .run w k }.hostTurn) := by
  unfold step
  cases h : s.engine with
  | idle => exact .inl ⟨rfl, rfl⟩
  | run w k =>
    cases k with
    | zero => exact .inr (.inl ⟨w, rfl, rfl⟩)
    | succ k => exact .inr (.inr ⟨w, k, rfl, rfl⟩)

/-- What a host turn is: nothing at the end of the program, or its next move. -/
theorem State.hostTurn_cases (s : State) :
    (s.prog[s.hpc]? = none ∧ s.hostTurn = .next s) ∨
    ∃ m, s.prog[s.hpc]? = some m ∧ s.hostTurn = { s with hpc := s.hpc + 1 }.runMove m := by
  unfold State.hostTurn
  cases h : s.prog[s.hpc]? with
  | none => exact .inl ⟨rfl, rfl⟩
  | some m => exact .inr ⟨m, rfl, rfl⟩

/-- A host load that answers a next state names the loaded bytes and changes nothing else of the machine. -/
theorem State.hostLoad_next {s t : State} {a : Word} {n x : Nat} (h : s.hostLoad a n x = .next t) :
    t = { s with
      names := (x, .bytes ((List.range n).map (s.hostLoadByte a.toNat))) :: s.names
      draws := s.draws + n } := by
  unfold State.hostLoad at h
  split_ifs at h
  · exact (Host.Outcome.next.inj h).symm

/-- A host store that answers a next state stores in a range that exists, and changes memory only. -/
theorem State.hostStore_next {s t : State} {a : Word} {bs : List Byte} (h : s.hostStore a bs = .next t) :
    a.toNat + bs.length ≤ addressSpace ∧ t = { s with mem := s.mem.writeBytesExcept s.plat.inWindow a.toNat bs } := by
  unfold State.hostStore at h
  split_ifs at h with hr
  · exact ⟨by simpa [rangeExists] using hr, (Host.Outcome.next.inj h).symm⟩

/-- A branch that answers a next state moves the host's position and nothing else. -/
theorem State.branch_next {s t : State} {x tgt : Nat} {mask : Word} (h : s.branch x mask tgt = .next t) :
    t = s ∨ t = { s with hpc := tgt } := by
  unfold State.branch at h
  split at h
  · obtain rfl := Host.Outcome.next.inj h
    split_ifs <;> simp
  · cases h

/-- A register write while a command runs changes STATUS alone (R51). -/
theorem State.hostWriteReg_busy {s : State} (h : s.busy = true) (r : Reg) (v : Word) :
    s.hostWriteReg r v = { s with status :=
      match r with
      | .status => s.status.hostWrite v
      | .cmd => { s.status with cmdLost := true }
      | _ => s.status } := by
  cases r <;> simp [State.hostWriteReg, h]

end Sys2Proof.Machine
end

