-- ==== Sys2Proof/Laws/PerInstr.lean ====
section
/-! SUPPORT. Facts about every command as a term, one lemma per constructor. -/

namespace Sys2Proof.Laws

/-- The word of a command has fields that no cause of R107 makes illegal, and it is one of the words below 0x40
(RSV = 0, R105). -/
def EncodesLegal.Statement (i : Instr) : Prop :=
  (CommandFields.ofWord (encode i)).legal = true ∧ (encode i).toNat < 0x40

theorem EncodesLegal.bswap16 (o : ByteOrder) : EncodesLegal.Statement (.bswap16 o) := by
  cases o <;> exact ⟨by decide, by decide⟩
theorem EncodesLegal.bswap32 (o : ByteOrder) : EncodesLegal.Statement (.bswap32 o) := by
  cases o <;> exact ⟨by decide, by decide⟩
theorem EncodesLegal.bswap64 (o : ByteOrder) : EncodesLegal.Statement (.bswap64 o) := by
  cases o <;> exact ⟨by decide, by decide⟩
theorem EncodesLegal.ctlen : EncodesLegal.Statement .ctlen := ⟨by decide, by decide⟩
theorem EncodesLegal.ptlen : EncodesLegal.Statement .ptlen := ⟨by decide, by decide⟩
theorem EncodesLegal.encb (o : ByteOrder) : EncodesLegal.Statement (.encb o) := by
  cases o <;> exact ⟨by decide, by decide⟩
theorem EncodesLegal.encc (o : ByteOrder) : EncodesLegal.Statement (.encc o) := by
  cases o <;> exact ⟨by decide, by decide⟩
theorem EncodesLegal.decb (o : ByteOrder) : EncodesLegal.Statement (.decb o) := by
  cases o <;> exact ⟨by decide, by decide⟩
theorem EncodesLegal.decc (o : ByteOrder) : EncodesLegal.Statement (.decc o) := by
  cases o <;> exact ⟨by decide, by decide⟩

end Sys2Proof.Laws
end

