-- ==== Sys2Proof/Tests/Slice0.lean ====
section
/-! SUPPORT. The model's own tests, each about one step or one function, and a witness for every statement that has
hypotheses. Expected values come from the worked vectors of spec 95_test_vectors.md (named `V-...`) or from the
rules named. -/

namespace Sys2Proof.Tests

open Sys2Proof.Machine

/-! ### Small states -/

/-- The key `K` of 95_test_vectors.md. -/
def keyK : Vector Word 4 := #v[0x31323130, 0x37363534, 0x42413938, 0x46454443]

/-- The filler words `F1` of 95_test_vectors.md. -/
def fillerF1 : Vector Word 3 := #v[0x11223344, 0x55667788, 0x99AABBCC]

/-- The custom table `T1` of 95_test_vectors.md. -/
def tableT1 : Vector Word 16 := #v[1, 2, 3, 4, 5, 6, 7, 8, 9, 10, 11, 12, 13, 14, 15, 16]

/-- IDLE after reset, with `K`, `F1`, `T1`, and the bytes `src` at 0x1000 as the source; the destination is 64 bytes
at 0x2000. -/
def ready (src : List Byte) : State :=
  { State.reset with
    key := keyK
    fill := fillerF1
    tbl := tableT1
    srcAddr := 0x1000
    srcLen := BitVec.ofNat 32 src.length
    dstAddr := 0x2000
    dstCap := 64
    mem := Memory.writeBytes [] 0x1000 src }

/-- The state with one host move to make, while the engine is in `e`. -/
def onMove (e : Engine) (m : Move) : State := { ready [0x41] with engine := e, prog := [m] }

/-- What `f` sees after one step that answers a next state. -/
def after {α : Type} (s : State) (f : State → α) : Option α :=
  match step s with
  | .next t => some (f t)
  | .fault _ | .refused _ => none

/-- What `f` sees after the command word `w` is run from `s`. -/
def ran {α : Type} (w : Nat) (s : State) (f : State → α) : Option α := after (s.withFetchWord 32 w) f

theorem next_of_after {s : State} {p : State → Bool} (h : after s p = some true) :
    ∃ t, step s = .next t ∧ p t = true := by
  unfold after at h
  cases hs : step s with
  | next t => exact ⟨t, rfl, by simpa [hs] using h⟩
  | fault r => simp [hs] at h
  | refused r => simp [hs] at h

/-- The engine step of the word `w` is `exec` of what `w` decodes to. -/
theorem exec_of_ran {s : State} {w : Nat} {i : Instr} {p : State → Bool}
    (hd : decode (commandWordOf 32 w) = .ok i) (h : ran w s p = some true) :
    ∃ t, exec i (s.withFetchWord 32 w) = .next t ∧ p t = true := by
  obtain ⟨t, ht, hp⟩ := next_of_after h
  refine ⟨t, ?_, hp⟩
  simpa [step, State.withFetchWord, State.accept, engineTurn, hd] using ht

theorem hostTurn_onMove (e : Engine) (m : Move) (h : ∀ w, e ≠ .run w 0) : HostTurn (onMove e m) m := ⟨h, rfl⟩

/-- On the platform of reset a word-aligned offset is at an aligned address. -/
theorem hostWrites_onMove (e : Engine) (off : BitVec 12) (v : Word) (h : ∀ w, e ≠ .run w 0)
    (ho : Platform.atReset.alignedAt off = true) : HostWrites (onMove e (.wr off .w32 v)) off v :=
  ⟨hostTurn_onMove _ _ h, ho⟩

theorem hostReads_onMove (e : Engine) (off : BitVec 12) (x : Nat) (h : ∀ w, e ≠ .run w 0)
    (ho : Platform.atReset.alignedAt off = true) : HostReads (onMove e (.rd off .w32 x)) off x :=
  ⟨hostTurn_onMove _ _ h, ho⟩

theorem idle_waits : ∀ w, Engine.idle ≠ .run w 0 := fun _ h => (nomatch h)
theorem running_waits (v : Word) (k : Nat) : ∀ w, Engine.run v (k + 1) ≠ .run w 0 := fun _ h => (nomatch h)

/-- A platform whose window is not at an aligned address. -/
def misalignedBase : Platform := { Platform.atReset with engineBase := 0x40000002 }

/-! ### WellFormed refuses ill-formed terms -/

theorem test_wf_op_zero : CommandFields.legal ⟨0x0, false, false, 0⟩ = false := by decide
theorem test_wf_op_high : CommandFields.legal ⟨0x8, false, false, 0⟩ = false := by decide
theorem test_wf_rsv : CommandFields.legal ⟨0x4, false, false, 1⟩ = false := by decide
theorem test_wf_tsel : CommandFields.legal ⟨0x1, true, false, 0⟩ = false := by decide
theorem test_wf_ord : CommandFields.legal ⟨0x4, false, true, 0⟩ = false := by decide
theorem test_wf_legal : CommandFields.legal ⟨0x7, true, true, 0⟩ = true := by decide
theorem test_wf_store_range : Move.wellFormed [] (.memw 0xFFFFFFFF [1, 2]) = false := by decide
theorem test_wf_load_range : Move.wellFormed [] (.memr 0xFFFFFFFF 2 0) = false := by decide
theorem test_wf_load_top : Move.wellFormed [] (.memr 0xFFFFFFFF 1 0) = true := by decide
theorem test_wf_branch_target : Move.wellFormed [.rd 8 .w32 0] (.bnz 0 1 2) = false := by decide
theorem test_wf_branch_name : Move.wellFormed [.rd 8 .w32 0] (.bnz 1 1 0) = false := by decide
theorem test_wf_invalidate : Move.wellFormed [] (.invalidate 0xFFFFFFFF 2) = false := by decide
theorem test_wf_wait : programWellFormed (movesWait 0 0) = true := by decide

/-! ### Decoding: words written out field by field, `RSV ORD TSEL OP` (R101, R102) -/

theorem test_decode_bswap16 : decode (0b00000000000000000000000000_0_0_0001#32) = .ok (.bswap16 .normalizing) := by rfl
theorem test_decode_bswap16_nat : decode (0b00000000000000000000000000_1_0_0001#32) = .ok (.bswap16 .native) := by rfl
theorem test_decode_bswap32 : decode (0b00000000000000000000000000_0_0_0010#32) = .ok (.bswap32 .normalizing) := by rfl
theorem test_decode_bswap32_nat : decode (0b00000000000000000000000000_1_0_0010#32) = .ok (.bswap32 .native) := by rfl
theorem test_decode_bswap64 : decode (0b00000000000000000000000000_0_0_0011#32) = .ok (.bswap64 .normalizing) := by rfl
theorem test_decode_bswap64_nat : decode (0b00000000000000000000000000_1_0_0011#32) = .ok (.bswap64 .native) := by rfl
theorem test_decode_ctlen : decode (0b00000000000000000000000000_0_0_0100#32) = .ok .ctlen := by rfl
theorem test_decode_ptlen : decode (0b00000000000000000000000000_0_0_0101#32) = .ok .ptlen := by rfl
theorem test_decode_encb : decode (0b00000000000000000000000000_0_0_0110#32) = .ok (.encb .normalizing) := by rfl
theorem test_decode_encb_nat : decode (0b00000000000000000000000000_1_0_0110#32) = .ok (.encb .native) := by rfl
theorem test_decode_encc : decode (0b00000000000000000000000000_0_1_0110#32) = .ok (.encc .normalizing) := by rfl
theorem test_decode_encc_nat : decode (0b00000000000000000000000000_1_1_0110#32) = .ok (.encc .native) := by rfl
theorem test_decode_decb : decode (0b00000000000000000000000000_0_0_0111#32) = .ok (.decb .normalizing) := by rfl
theorem test_decode_decb_nat : decode (0b00000000000000000000000000_1_0_0111#32) = .ok (.decb .native) := by rfl
theorem test_decode_decc : decode (0b00000000000000000000000000_0_1_0111#32) = .ok (.decc .normalizing) := by rfl
theorem test_decode_decc_nat : decode (0b00000000000000000000000000_1_1_0111#32) = .ok (.decc .native) := by rfl

/-- V-X1 to V-X6: illegal words are refused, by cause. -/
theorem test_decode_illegal :
    decode 0x00000000 = .error .reservedOp ∧ decode 0x00000008 = .error .reservedOp ∧
    decode 0x0000000F = .error .reservedOp ∧ decode 0x00000011 = .error .tselNotAllowed ∧
    decode 0x00000024 = .error .ordNotAllowed ∧ decode 0x00000044 = .error .reservedBits ∧
    decode 0x80000006 = .error .reservedBits := by
  refine ⟨?_, ?_, ?_, ?_, ?_, ?_, ?_⟩ <;> rfl

/-! ### Commands -/

/-- V-X1, V-X6. -/
theorem test_illegal_op :
    ran 0x00000000 State.reset (·.statusWord) = some 0x00000106 ∧
    ran 0x80000006 State.reset (·.statusWord) = some 0x00000106 := by decide

/-- V-N1. -/
theorem test_bswap16 :
    ran 0x1 { State.reset with dinLo := 0xFFFF1234 } (fun t => (t.dout, t.statusWord)) = some (0x3412, 2) := by decide
/-- V-N2. -/
theorem test_bswap16_nat :
    ran 0x21 { State.reset with dinLo := 0xFFFF1234 } (·.dout) = some 0x1234 := by decide
/-- V-N5. -/
theorem test_bswap32 :
    ran 0x2 { State.reset with dinHi := 0xFFFFFFFF, dinLo := 0x12345678 } (·.dout) = some 0x78563412 := by decide
/-- V-N6. -/
theorem test_bswap32_nat :
    ran 0x22 { State.reset with dinLo := 0x31323130 } (·.dout) = some 0x31323130 := by decide
/-- V-N7. -/
theorem test_bswap64 :
    ran 0x3 { State.reset with dinHi := 0x01234567, dinLo := 0x89ABCDEF } (fun t => (t.doutHi, t.doutLo)) =
      some (0xEFCDAB89, 0x67452301) := by decide
/-- V-N9. -/
theorem test_bswap64_nat :
    ran 0x23 { State.reset with dinHi := 0x01234567, dinLo := 0x89ABCDEF } (fun t => (t.doutHi, t.doutLo)) =
      some (0x01234567, 0x89ABCDEF) := by decide

/-- V-L1, `n` = 7. -/
theorem test_ctlen :
    ran 0x4 { State.reset with srcLen := 7 } (fun t => (t.resultLen, t.resultOff, t.statusWord)) =
      some (24, 10, 0x2) := by decide
/-- V-L2, the second and the last row. -/
theorem test_ctlen_range :
    ran 0x4 { State.reset with srcLen := 0xFFFFFFEF } (fun t => (t.resultLen, t.resultOff, t.statusWord)) =
      some (0, 10, 0xA) ∧
    ran 0x4 { State.reset with srcLen := 0xFFFFFFFF } (fun t => (t.resultLen, t.resultOff, t.statusWord)) =
      some (0x10, 10, 0xA) := by decide

/-- V-L3, `L` = 24, `b` = 0x07. -/
theorem test_ptlen :
    ran 0x5 { State.reset with srcLen := 24, arg := 0x07 } (fun t => (t.resultLen, t.resultOff, t.statusWord)) =
      some (7, 10, 0x2) := by decide
/-- V-L3, `L` = 0, `b` = 0xFF. -/
theorem test_ptlen_negative :
    ran 0x5 { State.reset with srcLen := 0, arg := 0xFF } (fun t => (t.resultLen, t.resultOff, t.statusWord)) =
      some (0xFFFFFFEF, 10, 0xA) := by decide

/-- V-B2: one forward round and its reverse. -/
theorem test_rounds :
    forwardRound keyK 0x9E3779B9 (0x01234567, 0x89ABCDEF) = (0xD8B30992, 0x803D5B8B) ∧
    reverseRound keyK 0x9E3779B9 (0xD8B30992, 0x803D5B8B) = (0x01234567, 0x89ABCDEF) := by decide
/-- V-B3: every addition wraps. -/
theorem test_round_wraps :
    forwardRound (Vector.replicate 4 0xFFFFFFFF) 0xFFFFFFFF (0xFFFFFFFF, 0xFFFFFFFF) = (0x07FFFFEE, 0x783FFECB) := by
  decide
/-- V-B4, the second, fifth and last row. -/
theorem test_enc_block :
    encBlock (Vector.replicate 16 0) keyK 0 = 0xF306BFD3B05BA743 ∧
    encBlock proposedBuiltinTable keyK 0x0123456789ABCDEF = 0xC9DEA105735818F8 ∧
    encBlock tableT1 keyK 0 = 0x4BC5FA04DAFE8A90 := by decide +kernel
/-- V-B4, the text below the table. -/
theorem test_dec_block : decBlock proposedBuiltinTable keyK 0 = 0x88F9021C82FC695C := by decide +kernel

/-- V-E2: every destination byte, the results and STATUS. -/
theorem test_encb :
    ran 0x6 (ready [0x41]) (fun t => (t.mem.readBytes 0x2000 16, t.resultLen, t.resultOff, t.statusWord)) =
      some ([0x7B, 0x05, 0xA2, 0x46, 0xD4, 0x94, 0x69, 0xAB, 0x38, 0x7C, 0x01, 0x5A, 0xC7, 0x4F, 0x22, 0x5C],
        16, 8, 0x2) := by decide +kernel
/-- V-E3. -/
theorem test_encb_nat :
    ran 0x26 (ready [0x41]) (fun t => t.mem.readBytes 0x2000 16) =
      some [0x7B, 0xE4, 0xD7, 0x30, 0x6C, 0x06, 0xD2, 0xE9, 0x26, 0x95, 0xDF, 0xDD, 0x2F, 0x21, 0x58, 0x73] := by
  decide +kernel
/-- V-E4. -/
theorem test_encc :
    ran 0x16 (ready [0x41, 0x42, 0x43, 0x44, 0x45, 0x46, 0x47])
      (fun t => (t.mem.readBytes 0x2000 24, t.resultLen, t.resultOff)) =
      some ([0x13, 0xF5, 0x6C, 0x95, 0x2D, 0x82, 0x82, 0x74, 0x12, 0x16, 0x38, 0xFC, 0xA1, 0x7F, 0x0D, 0xF7,
        0xE2, 0xD2, 0xC9, 0x3A, 0xC6, 0x9E, 0x91, 0xEB], 24, 10) := by decide +kernel
/-- V-E5. -/
theorem test_encc_nat :
    ran 0x36 (ready [0x41, 0x42, 0x43, 0x44, 0x45, 0x46, 0x47]) (fun t => t.mem.readBytes 0x2000 24) =
      some [0x7E, 0x58, 0x14, 0x50, 0xE7, 0x3A, 0x22, 0xD3, 0x3A, 0x06, 0xC4, 0xDC, 0x7F, 0x96, 0xDC, 0x5A,
        0xAA, 0x1A, 0xF8, 0xE6, 0xDC, 0xE6, 0xC5, 0xE0] := by decide +kernel
/-- V-D1. -/
theorem test_decb :
    ran 0x7 (ready [0x7B, 0x05, 0xA2, 0x46, 0xD4, 0x94, 0x69, 0xAB, 0x38, 0x7C, 0x01, 0x5A, 0xC7, 0x4F, 0x22, 0x5C])
      (fun t => (t.mem.readBytes 0x2000 16, t.resultLen, t.resultOff, t.statusWord)) =
      some ([0xFD, 0x33, 0x22, 0x11, 0x88, 0x77, 0x66, 0x55, 0x41, 0, 0, 0, 0, 0, 0, 0], 1, 8, 0x2) := by decide +kernel
/-- V-D4: a header that claims more than the image holds sets LRANGE and nothing else. -/
theorem test_decb_range :
    ran 0x7 (ready [0x58, 0x3E, 0x26, 0x31, 0x65, 0x2E, 0xAC, 0xE5, 0x46, 0xBB, 0x0A, 0x4C, 0x08, 0x24, 0xC3, 0xDA])
      (fun t => (t.mem.readByte 0x2000, t.resultLen, t.resultOff, t.statusWord)) =
      some (0xFF, 0xFFFFFFFF, 10, 0xA) := by decide +kernel
/-- V-D2. -/
theorem test_decc :
    ran 0x17 (ready [0x13, 0xF5, 0x6C, 0x95, 0x2D, 0x82, 0x82, 0x74, 0x12, 0x16, 0x38, 0xFC, 0xA1, 0x7F, 0x0D, 0xF7,
        0xE2, 0xD2, 0xC9, 0x3A, 0xC6, 0x9E, 0x91, 0xEB])
      (fun t => (t.mem.readBytes 0x200A 7, t.resultLen, t.resultOff)) =
      some ([0x41, 0x42, 0x43, 0x44, 0x45, 0x46, 0x47], 7, 10) := by decide +kernel
/-- V-D5: the wrong byte order is no error. -/
theorem test_decc_wrong_order :
    ran 0x17 (ready [0x7E, 0x58, 0x14, 0x50, 0xE7, 0x3A, 0x22, 0xD3, 0x3A, 0x06, 0xC4, 0xDC, 0x7F, 0x96, 0xDC, 0x5A,
        0xAA, 0x1A, 0xF8, 0xE6, 0xDC, 0xE6, 0xC5, 0xE0])
      (fun t => (t.mem.readBytes 0x2000 8, t.resultLen, t.resultOff, t.statusWord)) =
      some ([0xD6, 0x64, 0xFB, 0xEE, 0x31, 0x4C, 0x18, 0xB5], 8, 9, 0x2) := by decide +kernel

/-- V-E9, V-E12, V-E13. -/
theorem test_enc_checks :
    ran 0x6 { ready [0x41] with dstCap := 15 } (fun t => (t.statusWord, t.mem)) = some (0x306, [(0x1000, 0x41)]) ∧
    ran 0x6 { ready [0x41] with srcLen := 8, dstAddr := 0x1004 } (·.statusWord) = some 0x506 ∧
    ran 0x6 { ready [0x41] with dstAddr := 0xFFFFFFF8 } (·.statusWord) = some 0x406 := by decide
/-- V-D7, V-D10, V-D11. -/
theorem test_dec_checks :
    ran 0x7 { ready [0x41] with srcLen := 8 } (·.statusWord) = some 0x206 ∧
    ran 0x7 { ready [0x41] with srcLen := 17, dstCap := 0 } (·.statusWord) = some 0x206 ∧
    ran 0x7 { ready [0x41] with srcLen := 16, dstCap := 15 } (·.statusWord) = some 0x306 := by decide

/-- A platform that refuses the byte accesses of one kind at `lo`. -/
def refusing (lo : Nat) (kind : AccessKind) : Platform := { Platform.atReset with busRefused := [⟨lo, 1, kind⟩] }

/-- V-D14. -/
theorem test_bus_error :
    ran 0x7 { ready [] with srcLen := 16, plat := refusing 0x1003 .read } (fun t => (t.errAddr, t.statusWord)) =
      some (0x1003, 0x606) := by decide

/-! ### Witnesses: command words and the lifecycle -/

theorem witness_IllegalWordCompletesWithIllegalOp :
    ((State.reset.withFetchWord 32 0x44).engine = .run 0x44 0 ∧ decode 0x44 = .error .reservedBits) ∧
    ((State.reset.withFetchWord 32 0x0).engine = .run 0x0 0 ∧ decode 0x0 = .error .reservedOp) :=
  ⟨⟨rfl, rfl⟩, rfl, rfl⟩

theorem witness_StepRunsTheLatchedCommand :
    ((State.reset.withFetchWord 32 0x37).engine = .run 0x37 0 ∧ decode 0x37 = .ok (.decc .native)) ∧
    HostTurn (onMove .idle .assertReset) .assertReset ∧ HostTurn (onMove (.run 0x4 1) .assertReset) .assertReset :=
  ⟨⟨rfl, rfl⟩, ⟨fun _ h => (nomatch h), rfl⟩, ⟨fun _ h => (nomatch h), rfl⟩⟩

theorem witness_CmdWriteInIdleIsAccepted :
    ((onMove .idle (.wr 0x004 .w32 0x1)).engine = .idle ∧
      HostWrites (onMove .idle (.wr 0x004 .w32 0x1)) 0x004 0x1) ∧
    (let s := onMove (.run 0x1 1) (.wr 0x010 .w32 0x5)
     s.busy = true ∧ s.prog[s.hpc]? ≠ some .assertReset ∧ ∃ t, step s = .next t) ∧
    (let s := State.reset.withFetchWord 32 0x6
     s.busy = true ∧ s.prog[s.hpc]? ≠ some .assertReset ∧ ∃ t, step s = .next t) :=
  ⟨⟨rfl, hostWrites_onMove _ _ _ idle_waits (by decide)⟩, ⟨rfl, by decide, _, rfl⟩, rfl, by decide, _, rfl⟩

theorem witness_WritesWhileBusyTouchStatusAlone :
    ∀ off ∈ [(0x004 : BitVec 12), 0x008, 0x000, 0x00C, 0xFFC],
      (onMove (.run 0x6 1) (.wr off .w32 0x12)).engine = .run 0x6 (0 + 1) ∧
      HostWrites (onMove (.run 0x6 1) (.wr off .w32 0x12)) off 0x12 := by
  have ho : ∀ off ∈ [(0x004 : BitVec 12), 0x008, 0x000, 0x00C, 0xFFC], Platform.atReset.alignedAt off = true := by
    decide
  exact fun off h => ⟨rfl, hostWrites_onMove _ _ _ (running_waits _ _) (ho off h)⟩

theorem witness_StatusWriteClearsDoneAndCmdLost :
    HostWrites (onMove .idle (.wr 0x008 .w32 0x12)) 0x008 0x12 ∧
    HostWrites (onMove (.run 0x4 1) (.wr 0x008 .w32 0x12)) 0x008 0x12 ∧
    HostReads (onMove .idle (.rd 0x008 .w32 0)) 0x008 0 ∧ HostReads (onMove (.run 0x4 1) (.rd 0x008 .w32 0)) 0x008 0 :=
  ⟨hostWrites_onMove _ _ _ idle_waits (by decide), hostWrites_onMove _ _ _ (running_waits _ _) (by decide),
    hostReads_onMove _ _ _ idle_waits (by decide), hostReads_onMove _ _ _ (running_waits _ _) (by decide)⟩

/-- IDLE to RUN, RUN to IDLE by completion and by RESET, and RUN kept. -/
theorem witness_EngineMovesBetweenIdleAndRun :
    (∃ t, step (onMove .idle (.wr 0x004 .w32 0x1)) = .next t ∧ t.busy = true) ∧
    (∃ t, step (onMove (.run 0x1 0) .assertReset) = .next t ∧ t.busy = false) ∧
    (∃ t, step (onMove (.run 0x1 1) .assertReset) = .next t ∧ t.busy = false) ∧
    (∃ t, step (onMove (.run 0x1 1) (.wr 0x004 .w32 0x2)) = .next t ∧ t.busy = true) :=
  ⟨next_of_after (p := fun t => t.busy) (by decide), ⟨_, rfl, rfl⟩, ⟨_, rfl, rfl⟩, ⟨_, rfl, rfl⟩⟩

/-- The state of a move with DONE and CMDLOST set. -/
def onMoveDone (e : Engine) (m : Move) : State := { onMove e m with status := ⟨true, false, true, 0⟩ }

/-- DONE set by a completion, and cleared by an acceptance, a STATUS write and RESET. -/
theorem witness_DoneChangesOnlyAsItsRuleSays :
    (∃ t, step (onMove (.run 0x1 0) .assertReset) = .next t ∧ t.status.done = true) ∧
    (∃ t, step (onMoveDone .idle (.wr 0x004 .w32 0x1)) = .next t ∧ t.status.done = false) ∧
    (∃ t, step (onMoveDone .idle (.wr 0x008 .w32 0x2)) = .next t ∧ t.status.done = false) ∧
    (∃ t, step (onMoveDone .idle .assertReset) = .next t ∧ t.status.done = false) :=
  ⟨⟨_, rfl, rfl⟩, ⟨_, rfl, rfl⟩, ⟨_, rfl, rfl⟩, ⟨_, rfl, rfl⟩⟩

/-- CMDLOST set by a lost command, and cleared by a STATUS write and RESET. -/
theorem witness_CmdLostChangesOnlyAsItsRuleSays :
    (∃ t, step (onMove (.run 0x1 1) (.wr 0x004 .w32 0x2)) = .next t ∧ t.status.cmdLost = true) ∧
    (∃ t, step (onMoveDone .idle (.wr 0x008 .w32 0x10)) = .next t ∧ t.status.cmdLost = false) ∧
    (∃ t, step (onMoveDone .idle .assertReset) = .next t ∧ t.status.cmdLost = false) :=
  ⟨⟨_, rfl, rfl⟩, ⟨_, rfl, rfl⟩, ⟨_, rfl, rfl⟩⟩

theorem witness_ErrAddrChangesOnlyAtABusError :
    (∃ t, step (State.withFetchWord { ready [] with srcLen := 16, plat := refusing 0x1003 .read } 32 0x7) = .next t ∧
      (t.errAddr != 0) = true) ∧
    (∃ t, step { onMove .idle .assertReset with errAddr := 1 } = .next t ∧ (t.errAddr != 1) = true) :=
  ⟨next_of_after (p := fun t => t.errAddr != 0) (by decide), next_of_after (p := fun t => t.errAddr != 1) (by decide)⟩

theorem witness_AcceptedCommandCompletes :
    ∀ k ∈ [0, 3], (State.reset.accept 0x4 k).engine = .run 0x4 k ∧ (∀ m ∈ (State.reset.accept 0x4 k).prog, m ≠ .assertReset) ∧
      (State.reset.accept 0x4 k).prog.length ≤ (State.reset.accept 0x4 k).hpc := by
  decide

/-- A step of the running command, so that its second clause has a next state too. -/
theorem witness_AcceptedCommandCompletes_run : ∃ t, core.run (1 + 1) (State.reset.accept 0x4 1) = .next t := ⟨_, rfl⟩

/-- The WAIT loop alone, on a command with three moves left. -/
def waiting : State := { State.reset.accept 0x4 3 with prog := movesWait 0 7 }

theorem witness_WaitLoopEnds :
    waiting.engine = .run 0x4 3 ∧ waiting.plat.alignedAt 0x008 = true ∧ waiting.prog[waiting.hpc]? = some (.rd 0x008 .w32 7) ∧
    waiting.prog[waiting.hpc + 1]? = some (.bnz 7 0x1 waiting.hpc) := by decide

theorem witness_BusyTimeIsIndependentOfSecrets : ∃ t, step (State.reset.withFetchWord 32 0x16) = .next t := ⟨_, rfl⟩

/-! ### Witnesses: the register window -/

theorem witness_RegisterWriteThenReads :
    ∀ r ∈ [Reg.id, .errAddr, .srcAddr, .resultOff, .arg, .reserved, .doutHi, .key 0, .key 3, .fill 2, .tbl 15],
      r ≠ .cmd ∧ r ≠ .status ∧ (onMove .idle (moveWr r 0xFFFFFFFF)).engine = .idle ∧
      HostWrites (onMove .idle (moveWr r 0xFFFFFFFF)) (regOffset r) 0xFFFFFFFF := by
  have hr : ∀ r ∈ [Reg.id, .errAddr, .srcAddr, .resultOff, .arg, .reserved, .doutHi, .key 0, .key 3, .fill 2, .tbl 15],
      r ≠ .cmd ∧ r ≠ .status ∧ Platform.atReset.alignedAt (regOffset r) = true := by decide
  exact fun r h => ⟨(hr r h).1, (hr r h).2.1, rfl, hostWrites_onMove _ _ _ idle_waits (hr r h).2.2⟩

/-- The reserved ranges at their ends, and an offset that is no word's at an aligned address. -/
theorem witness_ReservedOffsetsReadZeroAndIgnoreWrites :
    (∀ off ∈ [(0x02C : BitVec 12), 0x05C, 0x07C, 0x0C0, 0xFFC],
      (off.toNat = 0x02C ∨ (0x05C ≤ off.toNat ∧ off.toNat ≤ 0x07C) ∨ 0x0C0 ≤ off.toNat) ∧
      HostWrites (onMove .idle (.wr off .w32 1)) off 1 ∧ HostReads (onMove .idle (.rd off .w32 0)) off 0) ∧
    ((0x042 : BitVec 12).toNat % 4 ≠ 0 ∧
      HostWrites { onMove .idle (.wr 0x042 .w32 1) with plat := misalignedBase } 0x042 1 ∧
      HostReads { onMove .idle (.rd 0x042 .w32 0) with plat := misalignedBase } 0x042 0) := by
  have ho : ∀ off ∈ [(0x02C : BitVec 12), 0x05C, 0x07C, 0x0C0, 0xFFC],
      (off.toNat = 0x02C ∨ (0x05C ≤ off.toNat ∧ off.toNat ≤ 0x07C) ∨ 0x0C0 ≤ off.toNat) ∧
      Platform.atReset.alignedAt off = true := by decide
  exact ⟨fun off h => ⟨(ho off h).1, hostWrites_onMove _ _ _ idle_waits (ho off h).2,
    hostReads_onMove _ _ _ idle_waits (ho off h).2⟩, by decide, ⟨⟨idle_waits, rfl⟩, by decide⟩,
    ⟨idle_waits, rfl⟩, by decide⟩

/-- Other widths, misaligned offsets, and a word-aligned offset of a window that is not at an aligned address. -/
theorem witness_UndefinedWindowAccessChangesNoRegister :
    (∀ a ∈ [((0x010 : BitVec 12), Width.w8), (0x010, .w16), (0x010, .w64), (0x011, .w32), (0xFFF, .w32)],
      a.2 ≠ .w32 ∨ (Platform.atReset.engineBase.toNat + a.1.toNat) % 4 ≠ 0) ∧
    (∀ off wd v x, HostTurn (onMove .idle (.wr off wd v)) (.wr off wd v) ∧
      HostTurn (onMove .idle (.rd off wd x)) (.rd off wd x)) ∧
    ((misalignedBase.engineBase.toNat + (0x010 : BitVec 12).toNat) % 4 ≠ 0 ∧
      HostTurn { onMove .idle (.wr 0x010 .w32 1) with plat := misalignedBase } (.wr 0x010 .w32 1)) :=
  ⟨by decide, fun _ _ _ _ => ⟨hostTurn_onMove _ _ idle_waits, hostTurn_onMove _ _ idle_waits⟩, by decide, idle_waits,
    rfl⟩

/-- The first and the last offset of each run of registers, in IDLE and in RUN. -/
theorem witness_RegisterReadReturnsItsRegister :
    ∀ off ∈ [(0x000 : BitVec 12), 0x004, 0x008, 0x00C, 0x010, 0x014, 0x018, 0x01C, 0x020, 0x024, 0x028, 0x030, 0x034,
      0x038, 0x03C, 0x040, 0x04C, 0x050, 0x058, 0x080, 0x0BC],
      HostReads (onMove .idle (.rd off .w32 0)) off 0 ∧ HostReads (onMove (.run 0x4 1) (.rd off .w32 0)) off 0 := by
  have ho : ∀ off ∈ [(0x000 : BitVec 12), 0x004, 0x008, 0x00C, 0x010, 0x014, 0x018, 0x01C, 0x020, 0x024, 0x028, 0x030,
      0x034, 0x038, 0x03C, 0x040, 0x04C, 0x050, 0x058, 0x080, 0x0BC], Platform.atReset.alignedAt off = true := by decide
  exact fun off h => ⟨hostReads_onMove _ _ _ idle_waits (ho off h),
    hostReads_onMove _ _ _ (running_waits _ _) (ho off h)⟩

theorem witness_NoMoveRevealsTheKey :
    (∀ w, (onMove .idle (.rd 0x040 .w32 0)).engine ≠ .run w 0) ∧
    ∃ t, step (onMove .idle (.rd 0x040 .w32 0)) = .next t :=
  ⟨fun _ h => (nomatch h), _, rfl⟩

/-! ### Witnesses: the functions -/

theorem witness_SwapsAreInvolutions :
    (∃ s u t t' : State, exec (.bswap16 .normalizing) s = .next t ∧ u.dinLo = t.doutLo ∧
      exec (.bswap16 .normalizing) u = .next t') ∧
    (∃ s u t t' : State, exec (.bswap32 .normalizing) s = .next t ∧ u.dinLo = t.doutLo ∧
      exec (.bswap32 .normalizing) u = .next t') ∧
    (∃ s u t t' : State, exec (.bswap64 .normalizing) s = .next t ∧ u.dinLo = t.doutLo ∧ u.dinHi = t.doutHi ∧
      exec (.bswap64 .normalizing) u = .next t') ∧ ([1, 2, 3, 4, 5, 6, 7, 8] : List Byte).length = 8 :=
  ⟨⟨{ State.reset with dinLo := 0xFFFF1234 }, { State.reset with dinLo := 0x3412 }, _, _, rfl, rfl, rfl⟩,
    ⟨{ State.reset with dinLo := 0x31323130 }, { State.reset with dinLo := 0x30313231 }, _, _, rfl, rfl, rfl⟩,
    ⟨{ State.reset with dinLo := 0x89ABCDEF }, { State.reset with dinHi := 0xEFCDAB89 }, _, _, rfl, rfl, rfl, rfl⟩,
    rfl⟩

theorem witness_BlockConversionsAreInverse :
    ([1, 2, 3, 4, 5, 6, 7, 8] : List Byte).length = 8 ∧ (0 < 8 ∧ 7 < 8) := by decide

theorem witness_CiphertextLengthIdentity :
    ((0xFFFFFFEE < 4294967296 ∧ 0xFFFFFFEE ≤ 0xFFFFFFEE) ∧ ¬ 0xFFFFFFEF ≤ 0xFFFFFFEE) ∧
    (0xFFFFFFEF ≤ 0xFFFFFFEF ∧ 0xFFFFFFEF ≤ 0xFFFFFFFF) ∧ (0xFFFFFFEF ≤ 0xFFFFFFFF ∧ 0xFFFFFFFF ≤ 0xFFFFFFFF) := by
  decide

/-- Words with BSWAP16's OP that are illegal. -/
theorem witness_Bswap16Completes :
    (0x11 : Word).toNat % 16 = 1 ∧ (0x11 : Word) ≠ 0x00000001 ∧ (0x11 : Word) ≠ 0x00000021 := by decide

/-- Words with CTLEN's OP that are illegal. -/
theorem witness_CtlenCompletes :
    (0x14 : Word).toNat % 16 = 4 ∧ (0x14 : Word) ≠ 0x00000004 ∧ (0x24 : Word).toNat % 16 = 4 ∧
    (0x24 : Word) ≠ 0x00000004 := by decide

theorem witness_HeaderByteGivesOffsetAndLengthBack :
    ([] : List Byte).length = 0 ∧ ([1, 2, 3, 4, 5, 6, 7] : List Byte).length = 7 := by decide

theorem witness_PadLaysOutTheImage : 0 < 12 ∧ 11 < 12 := by decide

theorem witness_FillerWordsReachFillerBytesAlone :
    fillOf ([0x41] : List Byte).length ≤ 8 ∧ ¬ fillOf ([0x41] : List Byte).length ≤ 7 := by decide

/-- A whole-block image, shared by the three statements about chaining. -/
theorem witness_EncryptionChainRecurrence :
    (pad [0x41] fillerF1).length % 8 = 0 ∧ 0 < (pad [0x41] fillerF1).length / 8 ∧ ([] : List Byte).length % 8 = 0 := by
  decide
theorem witness_DecryptionChainRecurrence :
    (List.replicate 24 (0 : Byte)).length % 8 = 0 ∧ 2 < (List.replicate 24 (0 : Byte)).length / 8 := by decide
theorem witness_DecryptionChainInvertsEncryptionChain : (pad [0x41] fillerF1).length % 8 = 0 := by decide

/-! ### Witnesses: the cipher commands -/

/-- One state for each clause, at the boundary: one byte of capacity short, one byte past the address space (each
range), one byte of overlap. -/
theorem witness_EncryptionFailsInPriorityOrder :
    (let s : State := { ready [0x41] with dstCap := 15 }
     s.dstCap.toNat < cipherLength s.srcLen.toNat) ∧
    (let s : State := { ready [0x41] with dstCap := 16, dstAddr := 0xFFFFFFF1 }
     cipherLength s.srcLen.toNat ≤ s.dstCap.toNat ∧ 4294967296 < s.dstAddr.toNat + cipherLength s.srcLen.toNat) ∧
    (let s : State := { ready [0x41] with srcLen := 2, srcAddr := 0xFFFFFFFF, dstCap := 16 }
     cipherLength s.srcLen.toNat ≤ s.dstCap.toNat ∧ 4294967296 < s.srcAddr.toNat + s.srcLen.toNat) ∧
    (let s : State := { ready [0x41] with dstAddr := 0xFF1, dstCap := 16 }
     cipherLength s.srcLen.toNat ≤ s.dstCap.toNat ∧ s.srcAddr.toNat + s.srcLen.toNat ≤ 4294967296 ∧
      s.dstAddr.toNat + cipherLength s.srcLen.toNat ≤ 4294967296 ∧ 0 < s.srcLen.toNat ∧
      s.srcAddr.toNat < s.dstAddr.toNat + cipherLength s.srcLen.toNat ∧
      s.dstAddr.toNat < s.srcAddr.toNat + s.srcLen.toNat) := by
  decide

theorem witness_DecryptionFailsInPriorityOrder :
    ¬ CipherLengthLegal 15 ∧ ¬ CipherLengthLegal 17 ∧ CipherLengthLegal 16 ∧
    (let s : State := { ready [] with srcLen := 16, dstCap := 15 }
     s.srcLen.toNat = 16 ∧ s.dstCap.toNat < s.srcLen.toNat) ∧
    (let s : State := { ready [] with srcLen := 16, dstCap := 16, srcAddr := 0xFFFFFFF1 }
     s.srcLen.toNat = 16 ∧ s.srcLen.toNat ≤ s.dstCap.toNat ∧ 4294967296 < s.srcAddr.toNat + s.srcLen.toNat) ∧
    (let s : State := { ready [] with srcLen := 16, dstCap := 16, dstAddr := 0xFFFFFFF1 }
     s.srcLen.toNat = 16 ∧ s.srcLen.toNat ≤ s.dstCap.toNat ∧ 4294967296 < s.dstAddr.toNat + s.srcLen.toNat) ∧
    (let s : State := { ready [] with srcLen := 16, dstCap := 16, dstAddr := 0x100F }
     s.srcLen.toNat = 16 ∧ s.srcLen.toNat ≤ s.dstCap.toNat ∧ s.srcAddr.toNat + s.srcLen.toNat ≤ 4294967296 ∧
      s.dstAddr.toNat + s.srcLen.toNat ≤ 4294967296 ∧ s.srcAddr.toNat < s.dstAddr.toNat + s.srcLen.toNat ∧
      s.dstAddr.toNat < s.srcAddr.toNat + s.srcLen.toNat) := by
  unfold CipherLengthLegal
  decide

/-- A failure with a code below 6, and a BUS_ERROR. -/
theorem witness_EveryFailureIsRecoverable :
    (∃ t, step (State.withFetchWord { ready [0x41] with dstCap := 15 } 32 0x6) = .next t ∧
      (t.status.errCode == 3) = true) ∧
    (∃ t, step (State.withFetchWord { ready [] with srcLen := 16, plat := refusing 0x1003 .read } 32 0x7) = .next t ∧
      (t.status.errCode == 6) = true) :=
  ⟨next_of_after (p := fun t => t.status.errCode == 3) (by decide),
    next_of_after (p := fun t => t.status.errCode == 6) (by decide)⟩

/-- An encryption at the top of the address space (V-E14), with exactly the capacity it needs. -/
def encTop : State := { ready [0x41] with dstAddr := 0xFFFFFFF0, dstCap := 16 }

theorem witness_EncryptionWritesTheChainedImage :
    encTop.mem.wf = true ∧ BuffersFit encTop (cipherLength encTop.srcLen.toNat) ∧
    BusAdmits encTop (cipherLength encTop.srcLen.toNat) := by
  unfold BuffersFit BusAdmits
  decide

/-- The shortest legal decryption, with exactly the capacity it needs. -/
def decShort : State := { ready (List.replicate 16 0x5A) with dstCap := 16 }

theorem witness_DecryptionWritesTheUnchainedImage :
    decShort.mem.wf = true ∧ CipherLengthLegal decShort.srcLen.toNat ∧ BuffersFit decShort decShort.srcLen.toNat ∧
    BusAdmits decShort decShort.srcLen.toNat := by
  unfold CipherLengthLegal BuffersFit BusAdmits
  decide

/-- A refused source read, and a refused last destination write. -/
theorem witness_EncryptionBusErrorReportsTheFirstRefusal :
    (let s : State := { encTop with plat := refusing 0x1000 .read }
     s.mem.wf = true ∧ BuffersFit s (cipherLength s.srcLen.toNat) ∧ 0x1000 = s.srcAddr.toNat + 0 ∧ 0 < s.srcLen.toNat ∧
      s.plat.admits 0x1000 .read = false ∧ (∀ j < 0, s.plat.admits (s.srcAddr.toNat + j) .read = true) ∧
      ∀ m < 8 * ((fillOf s.srcLen.toNat + 0) / 8), s.plat.admits (s.dstAddr.toNat + m) .write = true) ∧
    (let s : State := { encTop with plat := refusing 0xFFFFFFFF .write }
     s.mem.wf = true ∧ BuffersFit s (cipherLength s.srcLen.toNat) ∧ 0xFFFFFFFF = s.dstAddr.toNat + 15 ∧
      15 < cipherLength s.srcLen.toNat ∧ s.plat.admits 0xFFFFFFFF .write = false ∧
      (∀ j < 15, s.plat.admits (s.dstAddr.toNat + j) .write = true) ∧
      ∀ k < s.srcLen.toNat, (fillOf s.srcLen.toNat + k) / 8 ≤ 15 / 8 →
        s.plat.admits (s.srcAddr.toNat + k) .read = true) := by
  unfold BuffersFit
  decide

theorem witness_DecryptionBusErrorReportsTheFirstRefusal :
    (let s : State := { decShort with plat := refusing 0x1003 .read }
     s.mem.wf = true ∧ CipherLengthLegal s.srcLen.toNat ∧ BuffersFit s s.srcLen.toNat ∧
      0x1003 = s.srcAddr.toNat + 3 ∧ 3 < s.srcLen.toNat ∧ s.plat.admits 0x1003 .read = false ∧
      (∀ j < 3, s.plat.admits (s.srcAddr.toNat + j) .read = true) ∧
      ∀ m < 8 * (3 / 8), s.plat.admits (s.dstAddr.toNat + m) .write = true) ∧
    (let s : State := { decShort with plat := refusing 0x200F .write }
     s.mem.wf = true ∧ CipherLengthLegal s.srcLen.toNat ∧ BuffersFit s s.srcLen.toNat ∧
      0x200F = s.dstAddr.toNat + 15 ∧ 15 < s.srcLen.toNat ∧ s.plat.admits 0x200F .write = false ∧
      (∀ j < 15, s.plat.admits (s.dstAddr.toNat + j) .write = true) ∧
      ∀ k < s.srcLen.toNat, k / 8 ≤ 15 / 8 → s.plat.admits (s.srcAddr.toNat + k) .read = true) := by
  unfold CipherLengthLegal BuffersFit
  decide

/-- The ciphertext of V-E2 as the source of a decryption. -/
def restoring : State :=
  ready [0x7B, 0x05, 0xA2, 0x46, 0xD4, 0x94, 0x69, 0xAB, 0x38, 0x7C, 0x01, 0x5A, 0xC7, 0x4F, 0x22, 0x5C]

/-- V-E2 then V-D1: the ciphertext is moved to the source of the decryption. -/
theorem witness_DecryptionRestoresThePlaintext :
    ∃ s s' t : State, s'.plat.builtin = s.plat.builtin ∧ s.mem.wf = true ∧ exec (.encb .normalizing) s = .next t ∧
      (t.status.errCode == 0 && s'.mem.wf && s'.key == s.key && s'.srcLen == t.resultLen && t.resultLen == 16 &&
        (List.range t.resultLen.toNat).all fun m =>
          s'.mem.readByte (s'.srcAddr.toNat + m) == t.mem.readByte (s.dstAddr.toNat + m)) = true ∧
      BuffersFit s' 16 ∧ BusAdmits s' 16 :=
  have hc := exec_of_ran (s := ready [0x41]) (w := 0x6) (i := .encb .normalizing)
    (p := fun t =>
      t.status.errCode == 0 && restoring.mem.wf && restoring.key == keyK && restoring.srcLen == t.resultLen &&
        t.resultLen == 16 && (List.range t.resultLen.toNat).all fun m =>
          restoring.mem.readByte (restoring.srcAddr.toNat + m) == t.mem.readByte (0x2000 + m))
    rfl (by decide +kernel)
  ⟨(ready [0x41]).withFetchWord 32 0x6, restoring, hc.choose, rfl, by decide, hc.choose_spec.1, hc.choose_spec.2,
    by unfold BuffersFit; decide, by unfold BusAdmits; decide⟩

theorem witness_EqualTablesGiveEqualCommands :
    (let s : State := { ready [0x41] with tbl := proposedBuiltinTable }
     s.tbl = s.plat.builtin) := by decide

theorem witness_CommandsKeepTheirOperands : ∃ t, exec (.decc .native) decShort = .next t := ⟨_, rfl⟩

/-- A source byte, the byte below the destination, and the byte at its capacity. -/
theorem witness_CommandsWriteWithinTheirCapacity :
    encTop.mem.wf = true ∧ (∃ t, exec (.encb .native) encTop = .next t) ∧
    (encTop.srcAddr.toNat ≤ 0x1000 ∧ 0x1000 < encTop.srcAddr.toNat + encTop.srcLen.toNat) ∧
    0xFFFFFFEF < encTop.dstAddr.toNat ∧ encTop.dstAddr.toNat + encTop.dstCap.toNat ≤ 4294967296 :=
  ⟨by decide, ⟨_, rfl⟩, by decide, by decide, by decide⟩

theorem witness_EncryptionNeverSetsLrange : ∃ t, exec (.encc .native) encTop = .next t := ⟨_, rfl⟩
theorem witness_HiddenRegistersNeverMatter : ∃ t, exec (.decb .native) decShort = .next t := ⟨_, rfl⟩

/-! ### Witnesses: memory, the host, RESET and the invariant -/

/-- The top of the address space in IDLE, the byte after the source of a running command, and a byte in the window. -/
theorem witness_HostStoreWritesItsBytes :
    (let s := onMove .idle (.memw 0xFFFFFFFE [1, 0])
     HostTurn s (.memw 0xFFFFFFFE [1, 0]) ∧ s.mem.wf = true ∧
      (0xFFFFFFFE : Word).toNat + ([1, 0] : List Byte).length ≤ 4294967296 ∧
      ∀ i < 2, s.plat.inWindow (0xFFFFFFFE + i) = true ∨
        (s.inRunningSrc (0xFFFFFFFE + i) = false ∧ s.inRunningDst (0xFFFFFFFE + i) = false)) ∧
    (let s := onMove (.run 0x6 1) (.memw 0x1001 [1])
     HostTurn s (.memw 0x1001 [1]) ∧ s.mem.wf = true ∧ (0x1001 : Word).toNat + ([1] : List Byte).length ≤ 4294967296 ∧
      s.inRunningSrc 0x1001 = false ∧ s.inRunningDst 0x1001 = false) ∧
    (let s := onMove (.run 0x6 1) (.memw 0x40000FFF [1])
     HostTurn s (.memw 0x40000FFF [1]) ∧ s.mem.wf = true ∧
      (0x40000FFF : Word).toNat + ([1] : List Byte).length ≤ 4294967296 ∧ s.plat.inWindow 0x40000FFF = true) :=
  ⟨⟨hostTurn_onMove _ _ idle_waits, by decide, by decide, by decide⟩,
    ⟨hostTurn_onMove _ _ (running_waits _ _), by decide, by decide, by decide, by decide⟩,
    hostTurn_onMove _ _ (running_waits _ _), by decide, by decide, by decide⟩

/-- The last source byte of an encryption, and the last destination byte of a decryption. -/
theorem witness_HostStoreIntoARunningCommandIsRefused :
    (let s := onMove (.run 0x6 1) (.memw 0x1000 [9])
     s.engine = .run 0x6 (0 + 1) ∧ decode 0x6 = .ok (.encb .normalizing) ∧ s.prog[s.hpc]? = some (.memw 0x1000 [9]) ∧
      (0x1000 : Word).toNat + ([9] : List Byte).length ≤ 4294967296 ∧ (0x1000 : Word).toNat ≤ 0x1000 ∧
      0x1000 < (0x1000 : Word).toNat + ([9] : List Byte).length ∧
      s.plat.inWindow 0x1000 = false ∧ s.srcAddr.toNat ≤ 0x1000 ∧ 0x1000 < s.srcAddr.toNat + s.srcLen.toNat) ∧
    (let s : State := { onMove (.run 0x27 1) (.memw 0x200E [8, 9]) with srcLen := 16 }
     s.engine = .run 0x27 (0 + 1) ∧ decode 0x27 = .ok (.decb .native) ∧
      s.prog[s.hpc]? = some (.memw 0x200E [8, 9]) ∧
      (0x200E : Word).toNat + ([8, 9] : List Byte).length ≤ 4294967296 ∧ (0x200E : Word).toNat ≤ 0x200F ∧
      0x200F < (0x200E : Word).toNat + ([8, 9] : List Byte).length ∧ s.plat.inWindow 0x200F = false ∧
      s.dstAddr.toNat ≤ 0x200F ∧ 0x200F < s.dstAddr.toNat + s.srcLen.toNat) :=
  ⟨⟨rfl, rfl, rfl, by decide, by decide, by decide, by decide, by decide, by decide⟩,
    rfl, rfl, rfl, by decide, by decide, by decide, by decide, by decide, by decide⟩

/-- A platform that is not coherent. -/
def notCoherent : Platform := { Platform.atReset with dmaCoherent := false }

/-- The top of the address space on a coherent platform, a byte that the engine wrote and the host invalidated on one
that is not, and the invalidation. -/
theorem witness_HostLoadReturnsMemory :
    (let s := onMove .idle (.memr 0xFFFFFFFF 1 0)
     HostTurn s (.memr 0xFFFFFFFF 1 0) ∧ (0xFFFFFFFF : Word).toNat + 1 ≤ 4294967296 ∧ s.stale 0xFFFFFFFF = false ∧
      s.plat.dmaCoherent = true) ∧
    (let s : State := { onMove .idle (.memr 0x2000 1 0) with
        plat := notCoherent, coherence := [.invalidated 0x2000 1, .engineWrote 0x2000 16] }
     HostTurn s (.memr 0x2000 1 0) ∧ (0x2000 : Word).toNat + 1 ≤ 4294967296 ∧ s.stale 0x2000 = false ∧
      s.stale 0x2001 = true ∧ s.plat.inWindow 0x2000 = false ∧ s.inRunningDst 0x2000 = false) ∧
    HostTurn (onMove .idle (.invalidate 0x2000 16)) (.invalidate 0x2000 16) :=
  ⟨⟨hostTurn_onMove _ _ idle_waits, by decide, by decide, rfl⟩,
    ⟨⟨idle_waits, rfl⟩, by decide, by decide, by decide, by decide, by decide⟩, hostTurn_onMove _ _ idle_waits⟩

theorem witness_NothingWritesTheBuiltinTable : ∃ t, step (onMove .idle .assertReset) = .next t := ⟨_, rfl⟩

theorem witness_ResetGivesEveryRegisterItsValue :
    HostTurn (onMove .idle .assertReset) .assertReset ∧ HostTurn (onMove (.run 0x6 1) .assertReset) .assertReset :=
  ⟨hostTurn_onMove _ _ (fun _ h => (nomatch h)), hostTurn_onMove _ _ (fun _ h => (nomatch h))⟩

/-- A running encryption: its source byte, the byte after its destination, and a byte of both ranges (log 15). -/
theorem witness_ResetKeepsMemoryOutsideTheDestination :
    (let s := onMove (.run 0x6 1) .assertReset
     HostTurn s .assertReset ∧ s.mem.wf = true ∧ s.inRunningSrc 0x1000 = true ∧ s.inRunningDst 0x2010 = false) ∧
    (let s : State := { onMove (.run 0x6 1) .assertReset with dstAddr := 0xFF8 }
     HostTurn s .assertReset ∧ s.mem.wf = true ∧ s.inRunningSrc 0x1000 = true ∧ s.inRunningDst 0x1000 = true) :=
  ⟨⟨hostTurn_onMove _ _ (running_waits _ _), by decide, by decide, by decide⟩,
    ⟨running_waits _ _, rfl⟩, by decide, by decide, by decide⟩

/-- The first destination byte of an encryption, the last one of a decryption that would report BAD_LENGTH, and the last
byte of the address space in a range that would report ADDR_RANGE. -/
theorem witness_ResetDrawsTheDestination :
    (let s := onMove (.run 0x6 1) .assertReset
     HostTurn s .assertReset ∧ s.mem.wf = true ∧ s.inRunningDst 0x2000 = true ∧ s.inRunningSrc 0x2000 = false) ∧
    (let s : State := { onMove (.run 0x7 1) .assertReset with srcLen := 17 }
     HostTurn s .assertReset ∧ s.mem.wf = true ∧ s.decCheck = some .badLength ∧ s.inRunningDst 0x2010 = true ∧
      s.inRunningSrc 0x2010 = false) ∧
    (let s : State := { onMove (.run 0x6 1) .assertReset with dstAddr := 0xFFFFFFF8 }
     HostTurn s .assertReset ∧ s.mem.wf = true ∧ s.encCheck = some .addrRange ∧ s.inRunningDst 0xFFFFFFFF = true ∧
      s.inRunningSrc 0xFFFFFFFF = false) :=
  ⟨⟨hostTurn_onMove _ _ (fun _ h => (nomatch h)), by decide, by decide, by decide⟩,
    ⟨⟨fun _ h => (nomatch h), rfl⟩, by decide, by decide, by decide, by decide⟩,
    ⟨fun _ h => (nomatch h), rfl⟩, by decide, by decide, by decide, by decide⟩

/-- R232, D28: RESET in a command that would report BAD_LENGTH draws for its destination and keeps its source. -/
theorem test_reset_draws :
    (∃ t, step { onMove (.run 0x7 1) .assertReset with srcLen := 17 } = .next t ∧
      (t.draws == 17 && t.mem.readByte 0x1000 == 0x41) = true) :=
  ⟨_, rfl, by decide⟩

/-- A busy state that a command completes from. -/
theorem witness_StepKeepsTheInvariant :
    (State.reset.withFetchWord 32 0x6).Inv ∧ ∃ t, step (State.reset.withFetchWord 32 0x6) = .next t :=
  ⟨⟨by decide, by decide, by decide, by decide, by decide, by decide, by decide⟩, _, rfl⟩

/-! ### One host step each -/

/-- R45, R22, R42: a reserved offset and a key read 0, ID reads its constant. -/
theorem test_reads :
    after (onMove .idle (.rd 0xFFC .w32 0)) (·.names) = some [(0, .word 0)] ∧
    after (onMove .idle (.rd 0x000 .w32 0)) (·.names) = some [(0, .word 0x54454131)] ∧
    after (onMove .idle (.rd 0x040 .w32 0)) (·.names) = some [(0, .word 0)] := by decide

/-- R21: on a window at 0x40000002, a write at offset 0x010 (address 0x40000012) has no effect. -/
theorem test_misaligned_base :
    after { onMove .idle (.wr 0x010 .w32 0x5) with plat := misalignedBase } (·.srcAddr) = some 0x1000 := by decide

/-- R51: a command written while one runs is lost, and an operand write is ignored. -/
theorem test_busy_writes :
    after (onMove (.run 0x6 1) (.wr 0x004 .w32 0x1)) (·.statusWord) = some 0x11 ∧
    after (onMove (.run 0x6 1) (.wr 0x010 .w32 0x1)) (·.srcAddr) = some 0x1000 := by decide

end Sys2Proof.Tests
end

/-! PROOFS. What one step does, said once: the equation of each turn, and one inversion for commands, for host moves
and for whole steps. -/

namespace Sys2Proof.Machine

/-! ### The host's turn (spec 10_state.md R53, 30_encoding.md R110) -/

/-- A host turn changes the engine's wait and the host's position, and nothing else. -/
theorem State.afterMove_eq (s : State) :
    s.afterMove = { s with engine := s.ticked.engine, hpc := s.hpc + 1 } := by
  simp only [State.afterMove, State.ticked]
  split <;> rfl

theorem State.ticked_eq (s : State) : s.ticked = { s with engine := s.ticked.engine } := by
  simp only [State.ticked]
  split <;> rfl

theorem State.ticked_engine_of_idle {s : State} (h : s.engine = .idle) : s.ticked.engine = .idle := by
  simp [State.ticked, h]

theorem State.afterMove_of_idle {s : State} (h : s.engine = .idle) :
    s.afterMove = { s with hpc := s.hpc + 1 } := by
  rw [s.afterMove_eq, State.ticked_engine_of_idle h, ← h]

theorem State.ticked_engine_of_wait {s : State} {w : Word} {k : Nat} (h : s.engine = .run w (k + 1)) :
    s.ticked.engine = .run w k := by
  simp [State.ticked, h]

/-- A host turn keeps the latched word (R53). -/
theorem State.ticked_engine_of_run {s : State} {w : Word} {k : Nat} (h : s.engine = .run w k) :
    ∃ k', s.ticked.engine = .run w k' := by
  cases k with
  | zero => exact ⟨0, by simp [State.ticked, h]⟩
  | succ k => exact ⟨k, s.ticked_engine_of_wait h⟩

/-- BUSY is as before in any state whose engine has only waited. -/
theorem State.busy_of_ticked {s t : State} (h : t.engine = s.ticked.engine) : t.busy = s.busy := by
  cases hs : s.engine with
  | idle => rw [State.busy_of_idle hs, State.busy_of_idle (h.trans (State.ticked_engine_of_idle hs))]
  | run w k =>
    obtain ⟨k', hk⟩ := State.ticked_engine_of_run hs
    rw [State.busy_of_run hs, State.busy_of_run (h.trans hk)]

@[simp] theorem State.afterMove_busy (s : State) : s.afterMove.busy = s.busy :=
  State.busy_of_ticked (by rw [s.afterMove_eq])

@[simp] theorem State.afterMove_plat (s : State) : s.afterMove.plat = s.plat := by rw [s.afterMove_eq]

/-- A register read depends on the STATUS word and the register's own field alone, and a host turn changes
neither. -/
@[simp] theorem State.afterMove_readReg (s : State) (r : Reg) : s.afterMove.readReg r = s.readReg r := by
  cases r with
  | status => simp only [State.readReg, State.statusWord, State.afterMove_busy]; rw [s.afterMove_eq]
  | _ => rw [s.afterMove_eq]; rfl

/-- On the engine's turn a step runs the latched word (R97). -/
theorem step_of_run_zero {s : State} {w : Word} (h : s.engine = .run w 0) : step s = engineTurn w s := by
  simp [step, h]

/-- On the host's turn a step is the effect of the next move. -/
theorem step_of_hostTurn {s : State} {m : Move} (h : HostTurn s m) : step s = s.afterMove.runMove m := by
  obtain ⟨hturn, hmove⟩ := h
  rcases step_cases s with ⟨he, hs⟩ | ⟨w, he, -⟩ | ⟨w, k, he, hs⟩
  · simp [hs, State.hostTurn, hmove, State.afterMove, State.ticked, he]
  · exact absurd he (hturn w)
  · simp [hs, State.hostTurn, hmove, State.afterMove, State.ticked, he]

/-- At the end of the program the host's turn passes (R224, R233, R242). -/
theorem step_of_programEnd {s : State} (hturn : ∀ w, s.engine ≠ .run w 0) (hmove : s.prog[s.hpc]? = none) :
    step s = .next s.ticked := by
  rcases step_cases s with ⟨he, hs⟩ | ⟨w, he, -⟩ | ⟨w, k, he, hs⟩
  · simp [hs, State.hostTurn, hmove, State.ticked, he]
  · exact absurd he (hturn w)
  · simp [hs, State.hostTurn, hmove, State.ticked, he]

/-- A defined write acts on the register at its offset (R21). -/
theorem step_of_hostWrites {s : State} {off : BitVec 12} {v : Word} (h : HostWrites s off v) :
    step s = .next (s.afterMove.hostWriteReg (regAt off.toNat) v) := by
  rw [step_of_hostTurn h.1, State.runMove, State.hostWrite_aligned (by simpa using h.2)]

/-- A defined read names what the register at its offset reads as (R21, R86). -/
theorem step_of_hostReads {s : State} {off : BitVec 12} {x : Nat} (h : HostReads s off x) :
    step s = .next { s.afterMove with names := (x, .word (s.readReg (regAt off.toNat))) :: s.names } := by
  rw [step_of_hostTurn h.1, State.runMove, State.hostRead_aligned (by simpa using h.2), State.afterMove_readReg,
    s.afterMove_eq]

/-- When the platform asserts RESET, the step is `platformReset` (R230). -/
theorem step_of_assertReset {s : State} (h : HostTurn s .assertReset) :
    step s = .next s.afterMove.platformReset := step_of_hostTurn h

/-! ### The register at an offset (R20, R45) -/

/-- An offset is reserved or is the offset of the register that stands there. -/
theorem regAt_cases (o : Nat) : regAt o = .reserved ∨ o = (regOffset (regAt o)).toNat := by
  fun_cases regAt o
  case case16 | case20 => exact .inl rfl
  case case17 | case18 | case19 => exact .inr (by simp only [regOffset, BitVec.toNat_ofNat]; omega)
  all_goals exact .inr rfl

/-- An offset that names a register is that register's offset. -/
theorem regOffset_regAt {off : BitVec 12} {r : Reg} (h : regAt off.toNat = r) (hr : r ≠ .reserved) :
    off = regOffset r := by
  subst h
  exact BitVec.eq_of_toNat_eq ((regAt_cases off.toNat).resolve_left hr)

/-- The offsets R20 does not name (R45). -/
theorem regAt_reserved {o : Nat}
    (h : o % 4 ≠ 0 ∨ o = 0x02C ∨ (0x05C ≤ o ∧ o ≤ 0x07C) ∨ 0x0C0 ≤ o) : regAt o = .reserved := by
  rcases regAt_cases o with hr | hr
  · exact hr
  generalize regAt o = r at hr
  cases r with
  | key i | fill i | tbl i =>
    simp only [regOffset, BitVec.toNat_ofNat] at hr
    omega
  | reserved => rfl
  | _ => simp only [regOffset, BitVec.ofNat_eq_ofNat, BitVec.toNat_ofNat] at hr; omega

/-! ### Register writes (R20, R42, R50, R51) -/

theorem State.hostWriteReg_cmd_idle {s : State} (hb : s.busy = false) (v : Word) :
    s.hostWriteReg .cmd v = s.acceptScheduled v := by
  simp [State.hostWriteReg, hb]

theorem State.hostWriteReg_cmd_busy {s : State} (hb : s.busy = true) (v : Word) :
    s.hostWriteReg .cmd v = { s with status := { s.status with cmdLost := true } } := by
  simp [State.hostWriteReg, hb]

/-- In IDLE a write to any register but CMD and STATUS is a store. -/
theorem State.hostWriteReg_idle {s : State} {r : Reg} (hb : s.busy = false) (hc : r ≠ .cmd) (hs : r ≠ .status)
    (v : Word) : s.hostWriteReg r v = s.storeReg v r := by
  cases r with
  | cmd => exact absurd rfl hc
  | status => exact absurd rfl hs
  | _ => simp [State.hostWriteReg, hb]

/-- While a command runs a write to any register but CMD and STATUS is ignored (R51). -/
theorem State.hostWriteReg_otherBusy {s : State} {r : Reg} (hb : s.busy = true) (hc : r ≠ .cmd) (hs : r ≠ .status)
    (v : Word) : s.hostWriteReg r v = s := by
  cases r with
  | cmd => exact absurd rfl hc
  | status => exact absurd rfl hs
  | _ => simp [State.hostWriteReg, hb]

section
variable (s : State) (v : Word) (r : Reg)

@[simp] theorem State.storeReg_engine : (s.storeReg v r).engine = s.engine := by cases r <;> rfl
@[simp] theorem State.storeReg_status : (s.storeReg v r).status = s.status := by cases r <;> rfl
@[simp] theorem State.storeReg_errAddr : (s.storeReg v r).errAddr = s.errAddr := by cases r <;> rfl
@[simp] theorem State.storeReg_resultOff : (s.storeReg v r).resultOff = s.resultOff := by cases r <;> rfl
@[simp] theorem State.storeReg_seq : (s.storeReg v r).seq = s.seq := by cases r <;> rfl
@[simp] theorem State.storeReg_mem : (s.storeReg v r).mem = s.mem := by cases r <;> rfl
@[simp] theorem State.storeReg_plat : (s.storeReg v r).plat = s.plat := by cases r <;> rfl
@[simp] theorem State.storeReg_statusWord : (s.storeReg v r).statusWord = s.statusWord := by cases r <;> rfl

/-- A key register stores what is written to it, and only that (R42). -/
theorem State.storeReg_key (j : Fin 4) : (s.storeReg v r).key[j] = if r = .key j then v else s.key[j] := by
  cases r with
  | key i => simp [State.storeReg, Vector.getElem_set, Fin.ext_iff]
  | _ => simp [State.storeReg]

/-- A register reads as stored if it is RW, and every other register reads as before (R20). -/
theorem State.readReg_storeReg (r' : Reg) :
    (s.storeReg v r).readReg r' = if r' = r ∧ storesAndReads r then v else s.readReg r' := by
  cases r' with
  | fill j | tbl j =>
    cases r <;> simp [State.readReg, State.storeReg, storesAndReads, Vector.getElem_set, Fin.ext_iff, eq_comm]
  | status => cases r <;> simp [State.readReg, storesAndReads]
  | _ => cases r <;> simp [State.readReg, State.storeReg, storesAndReads]
end

/-! ### Writes of CMD and STATUS, as steps -/

/-- A CMD write in IDLE is accepted (R50). -/
theorem step_of_cmdWrite_idle {s : State} {v : Word} (hi : s.engine = .idle) (h : HostWrites s 0x004 v) :
    step s = .next ({ s with hpc := s.hpc + 1 }.acceptScheduled v) := by
  have hb : s.afterMove.busy = false := by rw [State.afterMove_busy, State.busy_of_idle hi]
  rw [step_of_hostWrites h, ← State.afterMove_of_idle hi]
  exact congrArg _ (State.hostWriteReg_cmd_idle hb v)

/-- A CMD write while a command runs is lost (R51). -/
theorem step_of_cmdWrite_busy {s : State} {v : Word} (hb : s.busy = true) (h : HostWrites s 0x004 v) :
    step s = .next { s with
      engine := s.ticked.engine, hpc := s.hpc + 1, status := { s.status with cmdLost := true } } := by
  have hw := State.hostWriteReg_cmd_busy (s := s.afterMove) (by simpa using hb) v
  rw [step_of_hostWrites h, show regAt (0x004 : BitVec 12).toNat = .cmd from rfl, hw, s.afterMove_eq]

/-- A STATUS write acts as R31 says, whatever the engine does. -/
theorem step_of_statusWrite {s : State} {v : Word} (h : HostWrites s 0x008 v) :
    step s = .next { s with
      engine := s.ticked.engine, hpc := s.hpc + 1, status := s.status.hostWrite v } := by
  rw [step_of_hostWrites h, s.afterMove_eq]
  rfl

/-! ### What a command can do (R52, R54, R200) -/

/-- Everything the engine's turn can leave: a swap result, a length result, a failed check (or illegal word), a
BUS_ERROR with its destination scrambled, or a written image with its length results. Only the last two touch memory,
and only after every buffer check has passed. -/
inductive CommandEffect (s : State) : State → Prop
  | swapped (r : DWord) : CommandEffect s (s.completeSwap r)
  | measured (v : Int) {off : Nat} (hoff : 3 ≤ off ∧ off ≤ 10) : CommandEffect s (s.completeLength v off)
  | failed (q : Sequencer) {e : CommandError} (he : ∀ a, e ≠ .busError a) :
      CommandEffect s ({ s with seq := q }.raiseError e)
  | busError (q : Sequencer) {wlen : Nat} (a : Nat) (hfit : s.bufferCheck wlen = none) :
      CommandEffect s (({ s with seq := q }.scrambleDestination wlen).raiseError (.busError a))
  | written (q : Sequencer) {image : List Byte} (c : List CoherenceEvent) (v : Int) {off : Nat}
      (hfit : s.bufferCheck image.length = none) (hoff : 3 ≤ off ∧ off ≤ 10) :
      CommandEffect s ({ s with
        mem := s.mem.writeBytes s.dstAddr.toNat image, seq := q, coherence := c }.completeLength v off)

/-- A failed buffer check is no BUS_ERROR (R203 to R205). -/
theorem State.bufferCheck_ne_busError {s : State} {wlen : Nat} {e : CommandError} (h : s.bufferCheck wlen = some e)
    (a : Nat) : e ≠ .busError a := by
  rintro rfl
  rcases s.bufferCheck_cases wlen with ⟨hc, -⟩ | ⟨hc, -⟩ | ⟨hc, -⟩ | hc <;> simp [hc] at h

/-- A failed decryption check is no BUS_ERROR (R202 to R205). -/
theorem State.decCheck_ne_busError {s : State} {e : CommandError} (h : s.decCheck = some e) (a : Nat) :
    e ≠ .busError a := by
  rcases s.decCheck_cases with ⟨hbad, -⟩ | ⟨hbuf, -⟩
  · rintro rfl
    simp [hbad] at h
  · exact State.bufferCheck_ne_busError (hbuf.symm.trans h) a

/-- What a passed decryption check says: a whole number of blocks, in buffers that fit. -/
theorem State.decCheck_eq_none {s : State} (h : s.decCheck = none) :
    s.bufferCheck s.srcLen.toNat = none ∧ s.srcLen.toNat % 8 = 0 := by
  rcases s.decCheck_cases with ⟨hbad, -⟩ | ⟨hbuf, -, hblocks⟩
  · simp [hbad] at h
  · exact ⟨hbuf.symm.trans h, hblocks⟩

theorem State.encrypt_effect (s : State) (x : TableSelect) (o : ByteOrder) : CommandEffect s (s.encrypt x o) := by
  rcases s.encrypt_cases x o with ⟨e, hc, heq⟩ | ⟨hc, y, q, -, heq⟩ | ⟨hc, -, q, heq⟩ <;> rw [heq]
  · exact .failed _ (State.bufferCheck_ne_busError hc)
  · exact .busError q _ hc
  · have hlen : (encChain (s.table x) s.key s.encImage o).length = ctlen s.srcLen.toNat := by
      rw [encChain_length _ _ _ _ (by simp [ctlen_dvd]), State.encImage_length]
    exact .written q _ _ (by rw [hlen]; exact hc) (fillOf_range _)

theorem State.decrypt_effect (s : State) (x : TableSelect) (o : ByteOrder) : CommandEffect s (s.decrypt x o) := by
  rcases s.decrypt_cases x o with ⟨e, hc, heq⟩ | ⟨hc, y, q, -, heq⟩ | ⟨hc, -, q, image, himage, heq⟩ <;> rw [heq]
  · exact .failed _ (State.decCheck_ne_busError hc)
  · exact .busError q _ (State.decCheck_eq_none hc).1
  · obtain ⟨hfit, hblocks⟩ := State.decCheck_eq_none hc
    have hlen : image.length = s.srcLen.toNat := by
      rw [himage, decChain_length _ _ _ _ (by simpa using hblocks), Memory.readBytes_length]
    exact .written q _ _ (by rw [hlen]; exact hfit) (hdroff_range _)

/-- Every command ends in one of the effects. -/
theorem exec_effect {i : Instr} {s t : State} (h : exec i s = .next t) : CommandEffect s t := by
  cases i with
  | bswap16 o | bswap32 o | bswap64 o => cases h; exact .swapped _
  | ctlen => cases h; exact .measured _ (fillOf_range _)
  | ptlen => cases h; exact .measured _ (hdroff_range _)
  | encb o | encc o => cases h; exact s.encrypt_effect _ o
  | decb o | decc o => cases h; exact s.decrypt_effect _ o

/-- So does the engine's turn, on an illegal word too (R201). -/
theorem engineTurn_effect {w : Word} {s t : State} (h : engineTurn w s = .next t) : CommandEffect s t := by
  unfold engineTurn at h
  split at h
  · exact exec_effect h
  · cases h
    exact .failed s.seq nofun

namespace CommandEffect
variable {s t : State} (h : CommandEffect s t)
include h

theorem sameOperands : SameOperands s t := by
  cases h <;> exact ⟨rfl, rfl, rfl, rfl, rfl, rfl, rfl, rfl, rfl, rfl⟩

theorem sameOutside : SameOutside s t := by
  cases h <;> exact ⟨rfl, rfl, rfl, rfl, rfl⟩

theorem engine_idle : t.engine = .idle := by cases h <;> rfl

theorem done : t.status.done = true := by cases h <;> rfl

theorem cmdLost : t.status.cmdLost = s.status.cmdLost := by cases h <;> rfl

/-- Only a BUS_ERROR writes ERR_ADDR (R32). -/
theorem errAddr : t.errAddr = s.errAddr ∨ t.status.errCode = 6 := by
  cases h with
  | busError => exact .inr rfl
  | failed q he => exact .inl (CommandError.errAddr_eq he _)
  | _ => exact .inl rfl

theorem errCode_le : t.status.errCode.toNat ≤ 6 := by
  cases h with
  | busError | failed => exact CommandError.code_le _
  | _ => exact Nat.zero_le 6

/-- LRANGE comes with a successful completion alone (R28). -/
theorem lrange_noError (hr : t.status.lrange = true) : t.status.errCode = 0 := by
  cases h with
  | busError | failed => simp at hr
  | _ => rfl

/-- A command leaves RESULT_OFF or gives it a header offset (R38). -/
theorem resultOff : t.resultOff = s.resultOff ∨ (3 ≤ t.resultOff.toNat ∧ t.resultOff.toNat ≤ 10) := by
  cases h with
  | measured v hoff | written q c v hfit hoff =>
    right
    simp only [State.completeLength_resultOff, BitVec.toNat_ofNat]
    omega
  | _ => exact .inl rfl

theorem mem_wf (hm : s.mem.wf = true) : t.mem.wf = true := by
  cases h with
  | busError => exact State.scrambleDestination_wf _ _ hm
  | written q c v hfit =>
    obtain ⟨-, -, hexists, -⟩ := State.bufferCheck_eq_none.mp hfit
    exact Memory.writeBytes_wf _ hm hexists
  | _ => exact hm

/-- No command changes a byte of its source range, below its destination or past its capacity (R33, R36, R72). -/
theorem readByte_outside {x : Nat} (hm : s.mem.wf = true)
    (hx : (s.srcAddr.toNat ≤ x ∧ x < s.srcAddr.toNat + s.srcLen.toNat) ∨ x < s.dstAddr.toNat ∨
      s.dstAddr.toNat + s.dstCap.toNat ≤ x) : t.mem.readByte x = s.mem.readByte x := by
  cases h with
  | @busError q wlen a hfit =>
    obtain ⟨hcap, -⟩ := State.bufferCheck_eq_none.mp hfit
    have hread := State.readByte_scrambleDestination { s with seq := q } wlen x hm
    have hsize := (State.destinationSize_le { s with seq := q } wlen).2
    rw [State.raiseError_mem, hread, if_neg]
    rintro ⟨⟨hlo, hhi⟩, hsrc⟩
    simp only [State.inSource, Bool.and_eq_false_iff, decide_eq_false_iff_not] at hsrc hlo hhi
    omega
  | written q c v hfit =>
    obtain ⟨hcap, -, hexists, hdisjoint⟩ := State.bufferCheck_eq_none.mp hfit
    rw [rangesOverlap_eq_false] at hdisjoint
    rw [State.completeLength_mem, Memory.readByte_writeBytes _ _ _ hm hexists, if_neg]
    omega
  | _ => rfl

end CommandEffect

/-! ### What a host or platform move can do (R51, R110, R230) -/

/-- A move that answers a next state is a defined register write, RESET, or a move that leaves every register: it
changes memory (in canonical form), the counter of free values, the coherence log, and the host's own position and
names. -/
theorem State.runMove_cases {s t : State} {m : Move} (h : s.runMove m = .next t) :
    (∃ off v, m = .wr off .w32 v ∧ s.plat.alignedAt off = true ∧ t = s.hostWriteReg (regAt off.toNat) v) ∨
    (m = .assertReset ∧ t = s.platformReset) ∨
    ∃ mem d c p n, (s.mem.wf = true → Memory.wf mem = true) ∧
      t = { s with mem := mem, draws := d, coherence := c, hpc := p, names := n } := by
  cases m with
  | wr off wd v =>
    cases h
    by_cases hd : accessDefined s.plat off wd = true
    · obtain ⟨rfl, ha⟩ : wd = .w32 ∧ s.plat.alignedAt off = true := by simpa [accessDefined] using hd
      exact .inl ⟨off, v, rfl, ha, State.hostWrite_aligned ha v⟩
    · exact .inr (.inr ⟨s.mem, _, _, _, _, id, if_neg hd⟩)
  | rd off wd x => cases h; exact .inr (.inr ⟨_, _, _, _, _, id, rfl⟩)
  | memw a bs =>
    obtain ⟨hexists, rfl⟩ := State.hostStore_next h
    exact .inr (.inr ⟨_, _, _, _, _, fun hm => Memory.writeBytesExcept_wf _ bs hm hexists, rfl⟩)
  | memr a n x =>
    obtain rfl := State.hostLoad_next h
    exact .inr (.inr ⟨_, _, _, _, _, id, rfl⟩)
  | bnz x mask target =>
    obtain rfl | rfl := State.branch_next h <;> exact .inr (.inr ⟨_, _, _, _, _, id, rfl⟩)
  | invalidate a n => cases h; exact .inr (.inr ⟨_, _, _, _, _, id, rfl⟩)
  | assertReset => cases h; exact .inr (.inl ⟨rfl, rfl⟩)

/-- What RESET leaves of the running command keeps memory canonical (R232). -/
theorem State.abandon_mem_wf {s : State} (h : s.mem.wf = true) : s.abandon.mem.wf = true := by
  rcases s.abandon_cases with ⟨-, he⟩ | ⟨wlen, -, he⟩ <;> rw [he]
  · exact h
  · exact s.scrambleDestination_wf wlen h

theorem State.abandon_plat (s : State) : s.abandon.plat = s.plat := by
  rcases s.abandon_cases with ⟨-, he⟩ | ⟨wlen, -, he⟩ <;> rw [he]
  rfl

/-! ### What a step can do -/

/-- Everything a step can leave: the engine completes, a CMD write is accepted or lost, STATUS is written, a register
is stored in IDLE, RESET, or a step in which no register changes but the engine's wait. -/
inductive StepEffect (s : State) : State → Prop
  | completes {w : Word} {t : State} (hrun : s.engine = .run w 0) (ht : CommandEffect s t) : StepEffect s t
  | accepts {v : Word} (hidle : s.engine = .idle) (hw : HostWrites s 0x004 v) :
      StepEffect s ({ s with hpc := s.hpc + 1 }.acceptScheduled v)
  | losesCommand {v : Word} (hbusy : s.busy = true) (hw : HostWrites s 0x004 v) :
      StepEffect s { s with
        engine := s.ticked.engine, hpc := s.hpc + 1, status := { s.status with cmdLost := true } }
  | writesStatus {v : Word} (hw : HostWrites s 0x008 v) :
      StepEffect s { s with
        engine := s.ticked.engine, hpc := s.hpc + 1, status := s.status.hostWrite v }
  | stores {off : BitVec 12} {v : Word} (hidle : s.engine = .idle) (hw : HostWrites s off v)
      (hcmd : off ≠ 0x004) (hstatus : off ≠ 0x008) :
      StepEffect s ({ s with hpc := s.hpc + 1 }.storeReg v (regAt off.toNat))
  | resets (hturn : HostTurn s .assertReset) : StepEffect s s.afterMove.platformReset
  | keeps (m : Memory) (d : Nat) (c : List CoherenceEvent) (p : Nat) (n : List (Nat × HostValue))
      (hm : s.mem.wf = true → m.wf = true) (hturn : ∀ w, s.engine ≠ .run w 0) :
      StepEffect s { s with
        engine := s.ticked.engine, mem := m, draws := d, coherence := c, hpc := p, names := n }

/-- A defined register write has one of the effects. -/
theorem StepEffect.of_hostWrites {s : State} {off : BitVec 12} {v : Word} (h : HostWrites s off v) :
    StepEffect s (s.afterMove.hostWriteReg (regAt off.toNat) v) := by
  by_cases hc : regAt off.toNat = .cmd
  · obtain rfl : off = 0x004 := regOffset_regAt hc nofun
    rw [hc]
    cases hb : s.busy with
    | false =>
      have hidle := State.busy_eq_false.mp hb
      rw [State.hostWriteReg_cmd_idle (by simpa using hb), State.afterMove_of_idle hidle]
      exact .accepts hidle h
    | true =>
      rw [State.hostWriteReg_cmd_busy (by simpa using hb), s.afterMove_eq]
      exact .losesCommand hb h
  by_cases hs : regAt off.toNat = .status
  · obtain rfl : off = 0x008 := regOffset_regAt hs nofun
    rw [hs, s.afterMove_eq]
    exact .writesStatus h
  cases hb : s.busy with
  | false =>
    rw [State.hostWriteReg_idle (by simpa using hb) hc hs, State.afterMove_of_idle (State.busy_eq_false.mp hb)]
    exact .stores (State.busy_eq_false.mp hb) h (fun he => hc (by rw [he]; rfl)) (fun he => hs (by rw [he]; rfl))
  | true =>
    rw [State.hostWriteReg_otherBusy (by simpa using hb) hc hs, s.afterMove_eq]
    exact .keeps _ _ _ _ _ id h.1.1

/-- Every step that answers a next state has one of the effects. -/
theorem step_effect {s t : State} (h : step s = .next t) : StepEffect s t := by
  have host (hturn : ∀ w, s.engine ≠ .run w 0) : StepEffect s t := by
    cases hmove : s.prog[s.hpc]? with
    | none =>
      obtain rfl := Host.Outcome.next.inj ((step_of_programEnd hturn hmove).symm.trans h)
      rw [s.ticked_eq]
      exact .keeps _ _ _ _ _ id hturn
    | some m =>
      have hm : HostTurn s m := ⟨hturn, hmove⟩
      rw [step_of_hostTurn hm] at h
      rcases State.runMove_cases h with ⟨off, v, rfl, ha, rfl⟩ | ⟨rfl, rfl⟩ | ⟨mem, d, c, p, n, hwf, rfl⟩
      · exact .of_hostWrites ⟨hm, by simpa using ha⟩
      · exact .resets hm
      · rw [s.afterMove_eq] at hwf ⊢
        exact .keeps mem d c p n hwf hturn
  rcases step_cases s with ⟨he, -⟩ | ⟨w, he, hs⟩ | ⟨w, k, he, -⟩
  · exact host (by simp [he])
  · exact .completes he (engineTurn_effect (hs ▸ h))
  · exact host (by simp [he])

/-- How a step moves the engine: it waits, accepts, completes or is reset (R53). -/
theorem step_engine_cases {s t : State} (h : step s = .next t) :
    t.engine = s.ticked.engine ∨
    (∃ v k, HostWrites s 0x004 v ∧ s.engine = .idle ∧ t.engine = .run v k) ∨
    (∃ w, s.engine = .run w 0 ∧ t.engine = .idle ∧ t.status.done = true) ∨
    (HostTurn s .assertReset ∧ t.engine = .idle) := by
  cases step_effect h with
  | completes hrun ht => exact .inr (.inr (.inl ⟨_, hrun, ht.engine_idle, ht.done⟩))
  | accepts hidle hw => exact .inr (.inl ⟨_, _, hw, hidle, rfl⟩)
  | stores hidle => exact .inl (by rw [State.storeReg_engine, State.ticked_engine_of_idle hidle, hidle])
  | resets hturn => exact .inr (.inr (.inr ⟨hturn, rfl⟩))
  | losesCommand | writesStatus | keeps => exact .inl rfl

/-! ### What a step leaves -/

/-- A step that touches the lifecycle, STATUS and the host's own position and names alone leaves the engine's
data. -/
theorem sameEngineData_lifecycle (s : State) (e : Engine) (st : Status) (ws : List Nat) (p : Nat)
    (n : List (Nat × HostValue)) :
    SameEngineData s { s with engine := e, status := st, waits := ws, hpc := p, names := n } :=
  ⟨⟨rfl, rfl, rfl, rfl, rfl, rfl, rfl, rfl, rfl, rfl⟩, ⟨rfl, rfl⟩, ⟨rfl, rfl⟩, rfl, rfl, rfl, rfl, rfl⟩

end Sys2Proof.Machine

/-! PROOFS. The statements of spec 10_state.md: each is one case per effect of a step or command, or the equation of
one turn. -/

namespace Sys2Proof.Machine

/-! ### The invariant -/

/-- The invariant speaks of memory, BUSY, STATUS and RESULT_OFF alone. -/
theorem State.Inv.of_same {s t : State} (h : s.Inv) (hm : s.mem.wf = true → t.mem.wf = true) (hb : t.busy = s.busy)
    (hs : t.status = s.status) (ho : t.resultOff = s.resultOff) : t.Inv where
  memCanonical := hm h.memCanonical
  busyNotDone := by rw [hb, hs]; exact h.busyNotDone
  busyNoCode := by rw [hb, hs]; exact h.busyNoCode
  busyNoRange := by rw [hb, hs]; exact h.busyNoRange
  codeProduced := by rw [hs]; exact h.codeProduced
  rangeNoError := by rw [hs]; exact h.rangeNoError
  offsetLegal := by rw [ho]; exact h.offsetLegal

/-- A completed command meets the invariant: it is IDLE, with a code and an offset of the tables. -/
theorem CommandEffect.inv {s t : State} (h : CommandEffect s t) (hs : s.Inv) : t.Inv := by
  have hidle : t.busy ≠ true := by simp [State.busy_of_idle h.engine_idle]
  exact {
    memCanonical := h.mem_wf hs.memCanonical
    busyNotDone := fun hb => absurd hb hidle
    busyNoCode := fun hb => absurd hb hidle
    busyNoRange := fun hb => absurd hb hidle
    codeProduced := h.errCode_le
    rangeNoError := h.lrange_noError
    offsetLegal := by
      rcases h.resultOff with he | hr
      · rw [he]; exact hs.offsetLegal
      · exact .inr hr }

/-- An accepted command shows nothing in STATUS but CMDLOST. -/
theorem State.Inv.acceptScheduled {s : State} (h : s.Inv) (w : Word) : (s.acceptScheduled w).Inv where
  memCanonical := h.memCanonical
  busyNotDone _ := rfl
  busyNoCode _ := rfl
  busyNoRange _ := rfl
  codeProduced := Nat.zero_le 6
  rangeNoError _ := rfl
  offsetLegal := h.offsetLegal

/-- A new STATUS with the code and the range of the old one, and DONE only where it was, keeps the invariant. -/
theorem State.Inv.withStatus {s : State} (h : s.Inv) {st : Status} (hc : st.errCode = s.status.errCode)
    (hr : st.lrange = s.status.lrange) (hd : s.status.done = false → st.done = false) :
    { s with status := st }.Inv where
  memCanonical := h.memCanonical
  busyNotDone hb := hd (h.busyNotDone hb)
  busyNoCode hb := hc.trans (h.busyNoCode hb)
  busyNoRange hb := hr.trans (h.busyNoRange hb)
  codeProduced := hc ▸ h.codeProduced
  rangeNoError hl := hc.trans (h.rangeNoError (hr.symm.trans hl))
  offsetLegal := h.offsetLegal

/-- A reset machine meets the invariant if its memory is canonical. -/
theorem State.resetRegisters_inv {s : State} (h : s.mem.wf = true) : s.resetRegisters.Inv where
  memCanonical := h
  busyNotDone _ := rfl
  busyNoCode _ := rfl
  busyNoRange _ := rfl
  codeProduced := Nat.zero_le 6
  rangeNoError _ := rfl
  offsetLegal := .inl rfl

/-- Settles O60: each effect of a step keeps the invariant. -/
theorem stepKeepsTheInvariant : Obligations.StepKeepsTheInvariant := by
  intro s t hs h
  have waited : State.Inv { s with engine := s.ticked.engine, hpc := s.hpc + 1 } :=
    hs.of_same id (State.busy_of_ticked rfl) rfl rfl
  cases step_effect h with
  | completes hrun ht => exact ht.inv hs
  | @accepts v hidle hw =>
    have moved : State.Inv { s with hpc := s.hpc + 1 } := hs.of_same id rfl rfl rfl
    exact moved.acceptScheduled v
  | losesCommand hbusy hw => exact waited.withStatus rfl rfl id
  | writesStatus hw => exact waited.withStatus rfl rfl (by simp +contextual)
  | stores hidle => exact hs.of_same (by simp) (by simp [State.busy]) (by simp) (by simp)
  | resets hturn =>
    exact State.resetRegisters_inv (State.abandon_mem_wf (by rw [s.afterMove_eq]; exact hs.memCanonical))
  | keeps m d c p n hm hturn => exact hs.of_same hm (State.busy_of_ticked rfl) rfl rfl

/-! ### The command lifecycle -/

/-- Settles O6: the accepted state, and then one case per effect of a step. -/
theorem cmdWriteInIdleIsAccepted : Obligations.CmdWriteInIdleIsAccepted := by
  constructor
  · intro s v hidle hw
    exact ⟨_, _, step_of_cmdWrite_idle hidle hw, rfl, rfl, rfl, rfl, rfl, rfl,
      sameEngineData_lifecycle s _ _ _ _ _, rfl⟩
  · intro s t hbusy hreset h
    cases step_effect h with
    | completes hrun ht => exact ht.sameOperands
    | stores hidle => simp [State.busy_of_idle hidle] at hbusy
    | resets hturn => exact absurd hturn.2 hreset
    | _ => exact ⟨rfl, rfl, rfl, rfl, rfl, rfl, rfl, rfl, rfl, rfl⟩

/-- Settles O7: by the register at the offset, CMD, STATUS or another. -/
theorem writesWhileBusyTouchStatusAlone : Obligations.WritesWhileBusyTouchStatusAlone := by
  intro s w v k off hrun hw
  have hticked := State.ticked_engine_of_wait hrun
  have hbusy := State.busy_of_run hrun
  by_cases h4 : off = 0x004
  · subst h4
    refine ⟨_, step_of_cmdWrite_busy hbusy hw, hticked,
      sameEngineData_lifecycle s _ _ _ _ _, rfl, rfl, ?_, ?_, ?_⟩ <;> simp
  by_cases h8 : off = 0x008
  · subst h8
    refine ⟨_, step_of_statusWrite hw, hticked,
      sameEngineData_lifecycle s _ _ _ _ _, rfl, rfl, ?_, ?_, ?_⟩ <;> simp
  · have hstep : step s = .next { s with engine := s.ticked.engine, hpc := s.hpc + 1 } := by
      rw [step_of_hostWrites hw, State.hostWriteReg_otherBusy (by simpa using hbusy)
        (fun hr => h4 (regOffset_regAt hr nofun)) (fun hr => h8 (regOffset_regAt hr nofun)), s.afterMove_eq]
    exact ⟨_, hstep, hticked,
      sameEngineData_lifecycle s _ _ _ _ _, rfl, rfl, fun h => absurd h h4, fun h => absurd h h8, fun _ _ => rfl⟩

/-- Settles O9: by how a step moves the engine. -/
theorem engineMovesBetweenIdleAndRun : Obligations.EngineMovesBetweenIdleAndRun := by
  intro s t h
  have hcases := step_engine_cases h
  refine ⟨fun hs ht => ?_, fun hs ht => ?_, fun hr => ?_, fun w k hrun ht => ?_⟩
  · rcases hcases with hwait | ⟨v, k, hw, -, he⟩ | ⟨w, -, he, -⟩ | ⟨-, he⟩
    · simp [State.busy_of_ticked hwait, hs] at ht
    · exact ⟨v, k, hw, he⟩
    · simp [State.busy_of_idle he] at ht
    · simp [State.busy_of_idle he] at ht
  · rcases hcases with hwait | ⟨v, k, -, -, he⟩ | ⟨w, hrun, -, hd⟩ | ⟨hr, -⟩
    · simp [State.busy_of_ticked hwait, hs] at ht
    · simp [State.busy_of_run he] at ht
    · exact .inl ⟨w, hrun, hd⟩
    · exact .inr hr
  · cases (step_of_assertReset hr).symm.trans h
    rfl
  · rcases hcases with hwait | ⟨v, k, -, hidle, -⟩ | ⟨w, -, he, -⟩ | ⟨-, he⟩
    · exact hwait ▸ State.ticked_engine_of_run hrun
    · simp [hidle] at hrun
    · simp [State.busy_of_idle he] at ht
    · simp [State.busy_of_idle he] at ht

/-- Settles O10: by the effect of the step; back, by the equation of the step that each cause makes. -/
theorem doneChangesOnlyAsItsRuleSays : Obligations.DoneChangesOnlyAsItsRuleSays := by
  intro s t h
  refine ⟨fun w hrun => ?_, fun hs ht => ?_, fun hs => ⟨fun ht => ?_, ?_⟩, fun hs hb => ?_⟩
  · rw [step_of_run_zero hrun] at h
    exact (engineTurn_effect h).done
  · cases step_effect h with
    | completes hrun => exact ⟨_, hrun⟩
    | accepts => simp [State.acceptScheduled] at ht
    | losesCommand | writesStatus | stores | keeps => simp [hs] at ht
    | resets => simp [State.platformReset, Status.reset] at ht
  · cases step_effect h with
    | completes hrun heff => simp [heff.done] at ht
    | accepts hidle hw => exact .inl ⟨hidle, _, hw⟩
    | writesStatus hw => exact .inr (.inl ⟨_, hw, by simpa [hs] using ht⟩)
    | resets hturn => exact .inr (.inr hturn)
    | losesCommand | stores | keeps => simp [hs] at ht
  · rintro (⟨hidle, v, hw⟩ | ⟨v, hw, hbit⟩ | hr)
    · cases (step_of_cmdWrite_idle hidle hw).symm.trans h
      rfl
    · cases (step_of_statusWrite hw).symm.trans h
      simp [hbit]
    · cases (step_of_assertReset hr).symm.trans h
      rfl
  · cases step_effect h with
    | completes hrun heff => simp [State.busy_of_idle heff.engine_idle] at hb
    | accepts | resets => rfl
    | losesCommand hbusy => exact hs hbusy
    | writesStatus => simp [hs ((State.busy_of_ticked rfl).symm.trans hb)]
    | stores hidle => simp [State.busy, hidle] at hb
    | keeps => exact hs ((State.busy_of_ticked rfl).symm.trans hb)

/-- Settles O11: by the effect of the step; back, by the equation of the step that each cause makes. -/
theorem cmdLostChangesOnlyAsItsRuleSays : Obligations.CmdLostChangesOnlyAsItsRuleSays := by
  intro s t h
  refine ⟨fun hs => ⟨fun ht => ?_, ?_⟩, fun hs => ⟨fun ht => ?_, ?_⟩⟩
  · cases step_effect h with
    | losesCommand hbusy hw => exact ⟨hbusy, _, hw⟩
    | completes hrun heff => simp [heff.cmdLost, hs] at ht
    | resets => simp [State.platformReset, Status.reset] at ht
    | accepts | writesStatus | stores | keeps => simp [State.acceptScheduled, hs] at ht
  · rintro ⟨hbusy, v, hw⟩
    cases (step_of_cmdWrite_busy hbusy hw).symm.trans h
    rfl
  · cases step_effect h with
    | writesStatus hw => exact .inl ⟨_, hw, by simpa [hs] using ht⟩
    | resets hturn => exact .inr hturn
    | completes hrun heff => simp [heff.cmdLost, hs] at ht
    | accepts | losesCommand | stores | keeps => simp [State.acceptScheduled, hs] at ht
  · rintro (⟨v, hw, hbit⟩ | hr)
    · cases (step_of_statusWrite hw).symm.trans h
      simp [hbit]
    · cases (step_of_assertReset hr).symm.trans h
      rfl

/-- Settles O12: a completion writes ERR_ADDR with code 6 alone, RESET clears it, and no other effect touches it. -/
theorem errAddrChangesOnlyAtABusError : Obligations.ErrAddrChangesOnlyAtABusError := by
  intro s t h hne
  cases step_effect h with
  | completes hrun heff => exact .inl ⟨_, hrun, heff.errAddr.resolve_left hne, heff.done⟩
  | resets hturn => exact .inr ⟨hturn, rfl⟩
  | stores hidle => exact absurd (State.storeReg_errAddr _ _ _) hne
  | accepts | losesCommand | writesStatus | keeps => exact absurd rfl hne

/-! ### The register window -/

/-- Settles O16: a defined write in IDLE is a store, whose reads `readReg_storeReg` says. -/
theorem registerWriteThenReads : Obligations.RegisterWriteThenReads := by
  intro s r v hidle hc hs hw
  have hstep : step s = .next ({ s with hpc := s.hpc + 1 }.storeReg v r) := by
    rw [step_of_hostWrites hw, regAt_regOffset,
      State.hostWriteReg_idle (by simp [State.busy_of_idle hidle]) hc hs, State.afterMove_of_idle hidle]
  have hreads (r') : State.readReg { s with hpc := s.hpc + 1 } r' = s.readReg r' := by
    rw [← State.afterMove_of_idle hidle, State.afterMove_readReg]
  refine ⟨_, hstep, fun r' => ?_, fun j => State.storeReg_key _ v r j, fun j => rfl, ?_, ?_, ?_, ?_, ?_⟩
  · rw [State.readReg_storeReg, hreads]
  all_goals simp [hidle]

/-- Settles O17: the register at such an offset is `reserved`. -/
theorem reservedOffsetsReadZeroAndIgnoreWrites : Obligations.ReservedOffsetsReadZeroAndIgnoreWrites := by
  intro s off hoff
  have hreg := regAt_reserved hoff
  refine ⟨fun x hr => ?_, fun v hw => ?_⟩
  · rw [step_of_hostReads hr, hreg]
    rfl
  · rw [step_of_hostWrites hw, hreg]
    simp [State.hostWriteReg, State.storeReg]

/-- Settles O18: an access that is not defined reaches no register. -/
theorem undefinedWindowAccessChangesNoRegister : Obligations.UndefinedWindowAccessChangesNoRegister := by
  intro s off wd hbad
  have hundefined : accessDefined s.plat off wd = false := by
    rcases hbad with hwidth | halign
    · simp [accessDefined, hwidth]
    · simp [accessDefined, Platform.alignedAt, halign]
  refine ⟨fun v ht => ?_, fun x ht => ⟨s.afterMove.hostReadValue off wd, s.draws + 1, ?_⟩⟩
  · rw [step_of_hostTurn ht, State.runMove, State.hostWrite, if_neg (by simp [hundefined])]
  · rw [step_of_hostTurn ht, State.runMove, State.hostRead, s.afterMove_eq]
    simp [hundefined]

theorem toNat_append_eq_add {m n : Nat} (x : BitVec m) (y : BitVec n) :
    (x ++ y).toNat = x.toNat * 2 ^ n + y.toNat := by
  rw [BitVec.toNat_append, ← Nat.shiftLeft_add_eq_or_of_lt y.isLt, Nat.shiftLeft_eq]

/-- ERR is 1 exactly when ERRCODE is not 0 (R27). -/
theorem Status.err_toNat (st : Status) : st.err.toNat = if st.errCode = 0 then 0 else 1 := by
  by_cases h : st.errCode = 0 <;> simp [Status.err, bne, Bool.toNat, h]

/-- STATUS as a number: one weight per field (R24, R27). -/
theorem State.statusWord_toNat (s : State) : s.statusWord.toNat =
    s.busy.toNat + 2 * s.status.done.toNat + 4 * (if s.status.errCode = 0 then 0 else 1) +
      8 * s.status.lrange.toNat + 16 * s.status.cmdLost.toNat + 256 * s.status.errCode.toNat := by
  simp only [State.statusWord, toNat_append_eq_add, BitVec.toNat_ofBool, BitVec.ofNat_eq_ofNat, BitVec.toNat_ofNat,
    Status.err_toNat]
  omega

/-- Settles O21. -/
theorem statusWordLayout : Obligations.StatusWordLayout := fun s => s.statusWord_toNat

/-- A defined read at a register's offset names what the register reads as, and has no side effect. -/
theorem readNames_regOffset (s : State) (x : Nat) (r : Reg) : ReadNames s x (regOffset r) (s.readReg r) := by
  intro hr
  rw [step_of_hostReads hr, regAt_regOffset]

/-- Settles O19: register by register, from `readNames_regOffset`. -/
theorem registerReadReturnsItsRegister : Obligations.RegisterReadReturnsItsRegister := by
  intro s x
  have hstatus : s.readReg .status = BitVec.ofNat 32 s.statusWord.toNat := by simp [State.readReg]
  rw [s.statusWord_toNat] at hstatus
  exact ⟨readNames_regOffset s x .id, readNames_regOffset s x .cmd, hstatus ▸ readNames_regOffset s x .status,
    readNames_regOffset s x .errAddr, readNames_regOffset s x .srcAddr, readNames_regOffset s x .srcLen,
    readNames_regOffset s x .dstAddr, readNames_regOffset s x .dstCap, readNames_regOffset s x .resultLen,
    readNames_regOffset s x .resultOff, readNames_regOffset s x .arg, readNames_regOffset s x .dinLo,
    readNames_regOffset s x .dinHi, readNames_regOffset s x .doutLo, readNames_regOffset s x .doutHi,
    fun i => readNames_regOffset s x (.key i), fun i => readNames_regOffset s x (.fill i),
    fun i => readNames_regOffset s x (.tbl i)⟩

/-- Settles O8: the equations of a STATUS write and of a read. -/
theorem statusWriteClearsDoneAndCmdLost : Obligations.StatusWriteClearsDoneAndCmdLost := by
  intro s
  refine ⟨fun v hw => ?_, fun x hr => ?_⟩
  · exact ⟨_, step_of_statusWrite hw, rfl, rfl, rfl, rfl, State.busy_of_ticked rfl,
      sameEngineData_lifecycle s _ _ _ _ _⟩
  · have hstep := step_of_hostReads hr
    rw [s.afterMove_eq] at hstep
    exact ⟨_, hstep, rfl, State.busy_of_ticked rfl, sameEngineData_lifecycle s _ _ _ _ _⟩

/-! ### No move reads the key (R42) -/

/-- The state with another key. -/
def State.withKey (s : State) (k : Vector Word 4) : State := { s with key := k }

@[simp] theorem State.withKey_engine (s : State) (k : Vector Word 4) : (s.withKey k).engine = s.engine := rfl
@[simp] theorem State.withKey_plat (s : State) (k : Vector Word 4) : (s.withKey k).plat = s.plat := rfl
@[simp] theorem State.withKey_draws (s : State) (k : Vector Word 4) : (s.withKey k).draws = s.draws := rfl

/-- A register read does not depend on the key (R42). -/
theorem State.readReg_withKey (s : State) (k : Vector Word 4) (r : Reg) :
    (s.withKey k).readReg r = s.readReg r := by
  cases r <;> rfl

theorem State.hostWriteReg_withKey (s : State) (k : Vector Word 4) (r : Reg) (v : Word) :
    ∃ k', (s.withKey k).hostWriteReg r v = (s.hostWriteReg r v).withKey k' := by
  cases hb : s.busy with
  | true =>
    have hb' : (s.withKey k).busy = true := hb
    rw [State.hostWriteReg_busy hb, State.hostWriteReg_busy hb']
    exact ⟨k, rfl⟩
  | false =>
    have hb' : (s.withKey k).busy = false := hb
    cases r <;> simp only [State.hostWriteReg, hb, hb'] <;> exact ⟨_, rfl⟩

theorem State.hostWrite_withKey (s : State) (k : Vector Word 4) (off : BitVec 12) (wd : Width) (v : Word) :
    ∃ k', (s.withKey k).hostWrite off wd v = (s.hostWrite off wd v).withKey k' := by
  cases hd : accessDefined s.plat off wd with
  | true =>
    obtain ⟨k', hk⟩ := s.hostWriteReg_withKey k (regAt off.toNat) v
    exact ⟨k', by simp [State.hostWrite, hd, hk]⟩
  | false => exact ⟨k, by simp [State.hostWrite, hd]⟩

theorem State.hostReadValue_withKey (s : State) (k : Vector Word 4) (off : BitVec 12) (wd : Width) :
    (s.withKey k).hostReadValue off wd = s.hostReadValue off wd := by
  simp [State.hostReadValue, State.readReg_withKey]

theorem State.platformReset_withKey (s : State) (k : Vector Word 4) :
    (s.withKey k).platformReset = s.platformReset := by
  have hlen : (s.withKey k).runningWriteLength = s.runningWriteLength := rfl
  simp only [State.platformReset, State.abandon, hlen]
  cases s.runningWriteLength <;> rfl

theorem State.runMove_withKey {s t : State} {m : Move} (k : Vector Word 4) (h : s.runMove m = .next t) :
    ∃ k', (s.withKey k).runMove m = .next (t.withKey k') := by
  cases m with
  | wr off wd v =>
    cases h
    obtain ⟨k', hk⟩ := s.hostWrite_withKey k off wd v
    exact ⟨k', congrArg _ hk⟩
  | rd off wd x =>
    cases h
    refine ⟨k, ?_⟩
    simp only [State.runMove, State.hostRead, State.hostReadValue_withKey]
    rfl
  | memw a bs =>
    refine ⟨k, ?_⟩
    have hallowed : (s.withKey k).storeAllowed = s.storeAllowed := rfl
    simp only [State.runMove, State.hostStore, hallowed] at h ⊢
    split_ifs at h ⊢
    cases h
    rfl
  | memr a n x =>
    refine ⟨k, ?_⟩
    have hallowed : (s.withKey k).loadAllowed = s.loadAllowed := rfl
    simp only [State.runMove, State.hostLoad, hallowed] at h ⊢
    split_ifs at h ⊢
    cases h
    rfl
  | bnz x mask target =>
    refine ⟨k, ?_⟩
    have hnamed : (s.withKey k).namedWord = s.namedWord := rfl
    simp only [State.runMove, State.branch, hnamed] at h ⊢
    split at h
    · cases h
      split_ifs <;> rfl
    · cases h
  | invalidate a n => cases h; exact ⟨k, rfl⟩
  | assertReset => cases h; exact ⟨_, congrArg _ (s.platformReset_withKey k)⟩

theorem State.ticked_withKey (s : State) (k : Vector Word 4) :
    (s.withKey k).ticked = s.ticked.withKey k := by
  simp only [State.ticked, State.withKey_engine]
  split <;> rfl

theorem State.afterMove_withKey (s : State) (k : Vector Word 4) :
    (s.withKey k).afterMove = s.afterMove.withKey k := by
  rw [State.afterMove, s.ticked_withKey]
  rfl

/-- A host turn with another key ends as it does with this one, but for the key (R42). -/
theorem step_withKey {s t : State} (k : Vector Word 4) (hturn : ∀ w, s.engine ≠ .run w 0) (h : step s = .next t) :
    ∃ k', step (s.withKey k) = .next (t.withKey k') := by
  cases hmove : s.prog[s.hpc]? with
  | none =>
    obtain rfl := Host.Outcome.next.inj ((step_of_programEnd hturn hmove).symm.trans h)
    exact ⟨k, by rw [step_of_programEnd (s := s.withKey k) hturn hmove, s.ticked_withKey]⟩
  | some m =>
    rw [step_of_hostTurn ⟨hturn, hmove⟩] at h
    obtain ⟨k', hk⟩ := State.runMove_withKey k h
    exact ⟨k', by rw [step_of_hostTurn (s := s.withKey k) ⟨hturn, hmove⟩, s.afterMove_withKey, hk]⟩

/-- Settles O20: the two next states differ in the key alone, which no register read shows. -/
theorem noMoveRevealsTheKey : Obligations.NoMoveRevealsTheKey := by
  intro s t k hturn h
  obtain ⟨k', hk⟩ := step_withKey k hturn h
  exact ⟨_, hk, rfl, rfl, rfl, t.readReg_withKey k'⟩

/-! ### Commands and what they leave -/

/-- Settles O48: no effect of a command touches an operand or the outside. -/
theorem commandsKeepTheirOperands : Obligations.CommandsKeepTheirOperands :=
  fun _ _ _ h => ⟨(exec_effect h).sameOperands, (exec_effect h).sameOutside⟩

/-- Settles O49: the two effects that touch memory come after the buffer checks. -/
theorem commandsWriteWithinTheirCapacity : Obligations.CommandsWriteWithinTheirCapacity :=
  fun _ _ _ _ hm h hx => (exec_effect h).readByte_outside hm hx

/-- Settles O55: no effect of a step touches the platform, and no register reads it. -/
theorem nothingWritesTheBuiltinTable : Obligations.NothingWritesTheBuiltinTable := by
  refine ⟨fun s t h => ?_, fun s b r => by cases r <;> rfl⟩
  cases step_effect h with
  | completes hrun heff => exact heff.sameOutside.1
  | stores hidle => exact State.storeReg_plat _ _ _
  | resets hturn => exact s.afterMove.abandon_plat.trans s.afterMove_plat
  | accepts | losesCommand | writesStatus | keeps => rfl

/-- A command's word decodes to the command (R102). -/
theorem decode_commandWordOf_encode (i : Instr) : decode (commandWordOf 32 (encode i).toNat) = .ok i := by
  cases i with
  | ctlen | ptlen => rfl
  | _ o => cases o <;> rfl

/-- Settles O5: the equations of the engine's turn and of the host's. -/
theorem stepRunsTheLatchedCommand : Obligations.StepRunsTheLatchedCommand := by
  have runs (s : State) (w : Word) (i : Instr) (hrun : s.engine = .run w 0) (hd : decode w = .ok i) :
      step s = exec i s := by
    rw [step_of_run_zero hrun, engineTurn, hd]
  exact ⟨runs, fun s m => step_of_hostTurn, fun s i => runs _ _ i rfl (decode_commandWordOf_encode i)⟩

end Sys2Proof.Machine

/-! PROOFS. Block words from and to bytes (spec 20_memory.md R74 to R78), byte by byte. -/

namespace Sys2Proof.Machine

/-! ### The bytes of a word -/

/-- A 64-bit word is its eight bytes. -/
theorem eq_of_bytes {x y : DWord} (h : ∀ j < 8, x.extractLsb' (8 * j) 8 = y.extractLsb' (8 * j) 8) : x = y := by
  refine BitVec.eq_of_getLsbD_eq fun i hi => ?_
  have hbit := congrArg (·.getLsbD (i % 8)) (h (i / 8) (by omega))
  simpa [Nat.mod_lt, Nat.div_add_mod] using hbit

/-- Byte `j` of a 64-bit word has weight `256 ^ j`. -/
theorem toNat_byte (v : DWord) (j : Nat) : (v.extractLsb' (8 * j) 8).toNat = v.toNat / 256 ^ j % 256 := by
  rw [BitVec.extractLsb'_toNat, Nat.shiftRight_eq_div_pow, Nat.pow_mul]

/-- `le64` puts byte `j` of the list at byte `j` of the word (R74). -/
theorem le64_byte (bs : List Byte) {j : Nat} (hj : j < 8) : (le64 bs).extractLsb' (8 * j) 8 = bs.getD j 0 := by
  induction bs generalizing j with
  | nil => simp [le64]
  | cons b bs ih =>
    cases j with
    | zero =>
      ext i hi
      simp [le64, hi, show i < 64 by omega]
    | succ j =>
      rw [List.getD_cons_succ, ← ih (by omega)]
      ext i hi
      have hin : 8 * (j + 1) + i < 64 := by omega
      have habove : ¬ 8 * (j + 1) + i < 8 := by omega
      have hsub : 8 * (j + 1) + i - 8 = 8 * j + i := by omega
      simp [le64, hin, habove, hsub, BitVec.getLsbD_of_ge b _ (Nat.le_of_not_lt habove), BitVec.getLsbD_eq_getElem,
        show 8 * j + i < 64 by omega]

theorem extractLsb'_append_byte_zero {n : Nat} (x : BitVec n) (b : Byte) : (x ++ b).extractLsb' 0 8 = b := by
  rw [BitVec.extractLsb'_append_eq_of_add_le (by omega), BitVec.extractLsb'_eq_self]

theorem extractLsb'_append_byte_add {n : Nat} (x : BitVec n) (b : Byte) (i : Nat) :
    (x ++ b).extractLsb' (i + 8) 8 = x.extractLsb' i 8 := by
  rw [BitVec.extractLsb'_append_eq_of_le (by omega), Nat.add_sub_cancel]

/-- `bswap64` mirrors the bytes of a word (R120). -/
theorem bswap64_byte (v : DWord) {j : Nat} (hj : j < 8) :
    (bswap64 v).extractLsb' (8 * j) 8 = v.extractLsb' (8 * (7 - j)) 8 := by
  interval_cases j <;> simp [bswap64, extractLsb'_append_byte_zero, extractLsb'_append_byte_add]

/-! ### LoadBlock and StoreBlock (R76 to R78) -/

/-- Which byte of a block, from the least significant up, stands at index `j` of its byte sequence (R78). -/
def byteIndex : ByteOrder → Nat → Nat
  | .normalizing, j => 7 - j
  | .native, j => j

theorem byteIndex_lt (o : ByteOrder) {j : Nat} (hj : j < 8) : byteIndex o j < 8 := by
  cases o with
  | normalizing => simp only [byteIndex]; omega
  | native => exact hj

theorem byteIndex_byteIndex (o : ByteOrder) {j : Nat} (hj : j < 8) : byteIndex o (byteIndex o j) = j := by
  cases o with
  | normalizing => simp only [byteIndex]; omega
  | native => rfl

/-- The swap of an order moves byte `byteIndex j` to byte `j` (R121). -/
theorem inOrder_bswap64_byte (o : ByteOrder) (v : DWord) {j : Nat} (hj : j < 8) :
    (inOrder o bswap64 v).extractLsb' (8 * j) 8 = v.extractLsb' (8 * byteIndex o j) 8 := by
  cases o with
  | normalizing => exact bswap64_byte v hj
  | native => rfl

theorem storeBlock_getD (o : ByteOrder) (v : DWord) {j : Nat} (hj : j < 8) :
    (storeBlock o v).getD j 0 = v.extractLsb' (8 * byteIndex o j) 8 :=
  (bytesOf64_getD _ j hj).trans (inOrder_bswap64_byte o v hj)

theorem loadBlock_byte (o : ByteOrder) (b : List Byte) {j : Nat} (hj : j < 8) :
    (loadBlock o b).extractLsb' (8 * j) 8 = b.getD (byteIndex o j) 0 :=
  (inOrder_bswap64_byte o _ hj).trans (le64_byte b (byteIndex_lt o hj))

theorem loadBlock_storeBlock (o : ByteOrder) (v : DWord) : loadBlock o (storeBlock o v) = v :=
  eq_of_bytes fun j hj => by
    rw [loadBlock_byte o _ hj, storeBlock_getD o v (byteIndex_lt o hj), byteIndex_byteIndex o hj]

theorem storeBlock_loadBlock (o : ByteOrder) {b : List Byte} (hb : b.length = 8) :
    storeBlock o (loadBlock o b) = b := by
  refine List.ext_getElem (by simp [hb]) fun j hj hj' => ?_
  have hj8 : j < 8 := hb ▸ hj'
  rw [← List.getD_eq_getElem _ 0 hj, storeBlock_getD o _ hj8, loadBlock_byte o b (byteIndex_lt o hj8),
    byteIndex_byteIndex o hj8, List.getD_eq_getElem _ 0 hj']

/-- The weight of a stored byte (R77, R78). -/
theorem storeBlock_toNat (o : ByteOrder) (v : DWord) {j : Nat} (hj : j < 8) :
    ((storeBlock o v).getD j 0).toNat = v.toNat / 256 ^ byteIndex o j % 256 := by
  rw [storeBlock_getD o v hj, toNat_byte]

/-- Settles O26: both conversions byte by byte; that a block loads with the weights it is stored with is
`storeBlock_loadBlock`. -/
theorem blockConversionsAreInverse : Obligations.BlockConversionsAreInverse := by
  have loaded (o : ByteOrder) (b : List Byte) (j : Nat) (hb : b.length = 8) (hj : j < 8) :
      (loadBlock o b).toNat / 256 ^ byteIndex o j % 256 = (b.getD j 0).toNat := by
    rw [← storeBlock_toNat o _ hj, storeBlock_loadBlock o hb]
  exact ⟨loadBlock_storeBlock, fun o _ => storeBlock_loadBlock o, fun v _ => storeBlock_toNat .normalizing v,
    fun v _ => storeBlock_toNat .native v, loaded .normalizing, loaded .native⟩

end Sys2Proof.Machine

/-! PROOFS. The first refused access of a cipher command, in the order of its blocks (spec 20_memory.md R81, R82, R84),
and the BUS_ERROR it ends with (60_exceptions.md R206, R210, R211). -/

namespace Sys2Proof.Machine

/-! ### The accesses of both directions, as one sequence (R81, R82) -/

/-- The reads of block `i` when the `n` source bytes at `a` are the bytes from `f` on of the blocks: `f` is the header
length in an encryption, and 0 in a decryption. -/
def sourceReads (f a n i : Nat) : List Access :=
  (List.range 8).filterMap fun k =>
    if f ≤ 8 * i + k ∧ 8 * i + k < f + n then some ⟨a + (8 * i + k - f), .read, i⟩ else none

/-- The accesses of a cipher command of `count` blocks. -/
def cipherAccesses (f a n d count : Nat) : List Access :=
  (List.range count).flatMap fun i => sourceReads f a n i ++ blockWrites d i

theorem encAccesses_eq (a n d : Nat) : encAccesses a n d = cipherAccesses (fillOf n) a n d (ctlen n / 8) := rfl

/-- Every byte of a block of a decryption is a source byte. -/
theorem decReads_eq {a n i : Nat} (hi : i < n / 8) : decReads a i = sourceReads 0 a n i := by
  rw [decReads, sourceReads, ← List.filterMap_eq_map]
  refine List.filterMap_congr fun k hk => ?_
  rw [if_pos (by rw [List.mem_range] at hk; omega)]
  rfl

theorem decAccesses_eq (a n d : Nat) : decAccesses a n d = cipherAccesses 0 a n d (n / 8) := by
  refine List.flatMap_congr fun i hi => ?_
  rw [decReads_eq (List.mem_range.mp hi)]

section
variable {f a n d i count : Nat} {x : Access}

/-- The reads of block `i` are the source bytes that stand in it. -/
theorem mem_sourceReads : x ∈ sourceReads f a n i ↔ ∃ k < n, (f + k) / 8 = i ∧ x = ⟨a + k, .read, i⟩ := by
  rw [sourceReads, List.mem_filterMap]
  constructor
  · rintro ⟨j, hj, hx⟩
    rw [List.mem_range] at hj
    split_ifs at hx with hin
    exact ⟨8 * i + j - f, by omega, by omega, (Option.some.inj hx).symm⟩
  · rintro ⟨k, hk, rfl, rfl⟩
    refine ⟨(f + k) % 8, List.mem_range.mpr (by omega), ?_⟩
    rw [Nat.div_add_mod, if_pos (by omega), Nat.add_sub_cancel_left]

/-- The writes of block `i` are the destination bytes of it. -/
theorem mem_blockWrites : x ∈ blockWrites d i ↔ ∃ m, m / 8 = i ∧ x = ⟨d + m, .write, i + 1⟩ := by
  rw [blockWrites, List.mem_map]
  constructor
  · rintro ⟨j, hj, rfl⟩
    rw [List.mem_range] at hj
    exact ⟨8 * i + j, by omega, rfl⟩
  · rintro ⟨m, rfl, rfl⟩
    exact ⟨m % 8, List.mem_range.mpr (by omega), by rw [Nat.div_add_mod]⟩

/-- A cipher command reads each source byte and writes each destination byte. -/
theorem mem_cipherAccesses (hfit : f + n ≤ 8 * count) :
    x ∈ cipherAccesses f a n d count ↔
      (∃ k < n, x = ⟨a + k, .read, (f + k) / 8⟩) ∨ ∃ m < 8 * count, x = ⟨d + m, .write, m / 8 + 1⟩ := by
  simp only [cipherAccesses, List.mem_flatMap, List.mem_range, List.mem_append, mem_sourceReads, mem_blockWrites]
  constructor
  · rintro ⟨i, hi, ⟨k, hk, rfl, rfl⟩ | ⟨m, rfl, rfl⟩⟩
    · exact .inl ⟨k, hk, rfl⟩
    · exact .inr ⟨m, by omega, rfl⟩
  · rintro (⟨k, hk, rfl⟩ | ⟨m, hm, rfl⟩)
    · exact ⟨(f + k) / 8, by omega, .inl ⟨k, hk, rfl, rfl⟩⟩
    · exact ⟨m / 8, by omega, .inr ⟨m, rfl, rfl⟩⟩

/-! ### The architectural order, as a time -/

/-- When an access is made: block by block, the 8 reads of a block at times 0 to 7 of its 16, its writes at 8 to 15. -/
def Access.time (f a d : Nat) (x : Access) : Nat :=
  match x.kind with
  | .read => 16 * ((f + (x.addr - a)) / 8) + (f + (x.addr - a)) % 8
  | .write => 16 * ((x.addr - d) / 8) + 8 + (x.addr - d) % 8

@[simp] theorem Access.time_read (f a d k b : Nat) :
    Access.time f a d ⟨a + k, .read, b⟩ = 16 * ((f + k) / 8) + (f + k) % 8 := by
  simp [Access.time]

@[simp] theorem Access.time_write (f a d m b : Nat) :
    Access.time f a d ⟨d + m, .write, b⟩ = 16 * (m / 8) + 8 + m % 8 := by
  simp [Access.time]

theorem sourceReads_pairwise : (sourceReads f a n i).Pairwise fun x y => x.time f a d < y.time f a d := by
  rw [sourceReads, List.pairwise_filterMap]
  refine List.pairwise_lt_range.imp_of_mem fun hj hj' hlt x hx y hy => ?_
  rw [List.mem_range] at hj hj'
  split_ifs at hx hy
  cases hx
  cases hy
  simp only [Access.time_read]
  omega

theorem blockWrites_pairwise : (blockWrites d i).Pairwise fun x y => x.time f a d < y.time f a d := by
  rw [blockWrites, List.pairwise_map]
  refine List.pairwise_lt_range.imp_of_mem fun hj hj' hlt => ?_
  rw [List.mem_range] at hj hj'
  simp only [Access.time_write]
  omega

theorem time_div_of_mem_block (hx : x ∈ sourceReads f a n i ++ blockWrites d i) : x.time f a d / 16 = i := by
  rcases List.mem_append.mp hx with hread | hwrite
  · obtain ⟨k, -, hk, rfl⟩ := mem_sourceReads.mp hread
    rw [Access.time_read]
    omega
  · obtain ⟨m, hm, rfl⟩ := mem_blockWrites.mp hwrite
    rw [Access.time_write]
    omega

/-- The accesses stand in the order of their times. -/
theorem cipherAccesses_pairwise :
    (cipherAccesses f a n d count).Pairwise fun x y => x.time f a d < y.time f a d := by
  rw [cipherAccesses, List.pairwise_flatMap]
  constructor
  · intro i _
    refine List.pairwise_append.mpr ⟨sourceReads_pairwise, blockWrites_pairwise, fun x hx y hy => ?_⟩
    obtain ⟨k, -, hk, rfl⟩ := mem_sourceReads.mp hx
    obtain ⟨m, hm, rfl⟩ := mem_blockWrites.mp hy
    simp only [Access.time_read, Access.time_write]
    omega
  · refine List.pairwise_lt_range.imp fun hlt x hx y hy => ?_
    have htx := time_div_of_mem_block hx
    have hty := time_div_of_mem_block hy
    omega

end

/-! ### The first refused access (R84, R206) -/

/-- In a list ordered by time, the first refused access is the refused one before which every access is admitted. -/
theorem Platform.firstRefused_of_pairwise {p : Platform} {xs : List Access} {x : Access} {time : Access → Nat}
    (hsorted : xs.Pairwise fun y z => time y < time z) (hx : x ∈ xs) (hrefused : p.admits x.addr x.kind = false)
    (hbefore : ∀ y ∈ xs, time y < time x → p.admits y.addr y.kind = true) : p.firstRefused xs = some x := by
  obtain ⟨as, bs, rfl⟩ := List.append_of_mem hx
  obtain ⟨-, -, hcross⟩ := List.pairwise_append.mp hsorted
  refine List.find?_eq_some_iff_append.mpr ⟨by simp [hrefused], as, bs, rfl, fun y hy => ?_⟩
  simp [hbefore y (by simp [hy]) (hcross y hy x (by simp))]

/-- `addr` is where a cipher command of `wlen` bytes is first refused: a source byte before which every source byte and
every earlier block of the destination is admitted, or a destination byte before which every destination byte and the
source up to its own block is (R81, R82). -/
def FirstRefusedAt (s : State) (f wlen addr : Nat) : Prop :=
  (∃ k, addr = s.srcAddr.toNat + k ∧ k < s.srcLen.toNat ∧ s.plat.admits addr .read = false ∧
    (∀ j < k, s.plat.admits (s.srcAddr.toNat + j) .read = true) ∧
    ∀ m < 8 * ((f + k) / 8), s.plat.admits (s.dstAddr.toNat + m) .write = true) ∨
  (∃ m, addr = s.dstAddr.toNat + m ∧ m < wlen ∧ s.plat.admits addr .write = false ∧
    (∀ j < m, s.plat.admits (s.dstAddr.toNat + j) .write = true) ∧
    ∀ k < s.srcLen.toNat, (f + k) / 8 ≤ m / 8 → s.plat.admits (s.srcAddr.toNat + k) .read = true)

theorem FirstRefusedAt.firstRefused {s : State} {f wlen addr : Nat} (h : FirstRefusedAt s f wlen addr)
    (hblocks : wlen % 8 = 0) (hfit : f + s.srcLen.toNat ≤ wlen) :
    ∃ x, s.plat.firstRefused
      (cipherAccesses f s.srcAddr.toNat s.srcLen.toNat s.dstAddr.toNat (wlen / 8)) = some x ∧ x.addr = addr := by
  obtain ⟨count, rfl⟩ := Nat.dvd_of_mod_eq_zero hblocks
  rw [Nat.mul_div_cancel_left count (by decide)]
  obtain ⟨k, rfl, hk, hrefused, hreads, hwrites⟩ | ⟨m, rfl, hm, hrefused, hwrites, hreads⟩ := h
  · refine ⟨_, Platform.firstRefused_of_pairwise cipherAccesses_pairwise
      ((mem_cipherAccesses hfit).mpr (.inl ⟨k, hk, rfl⟩)) hrefused fun y hy hlt => ?_, rfl⟩
    obtain ⟨j, hj, rfl⟩ | ⟨m, hm, rfl⟩ := (mem_cipherAccesses hfit).mp hy <;>
      simp only [Access.time_read, Access.time_write] at hlt
    · exact hreads j (by omega)
    · exact hwrites m (by omega)
  · refine ⟨_, Platform.firstRefused_of_pairwise cipherAccesses_pairwise
      ((mem_cipherAccesses hfit).mpr (.inr ⟨m, hm, rfl⟩)) hrefused fun y hy hlt => ?_, rfl⟩
    obtain ⟨k, hk, rfl⟩ | ⟨j, hj, rfl⟩ := (mem_cipherAccesses hfit).mp hy <;>
      simp only [Access.time_read, Access.time_write] at hlt
    · exact hreads k hk (by omega)
    · exact hwrites j (by omega)

/-- The refused byte exists: it lies in the source or the destination (R70). -/
theorem FirstRefusedAt.lt_addressSpace {s : State} {f wlen addr : Nat} (h : FirstRefusedAt s f wlen addr)
    (hfit : BuffersFit s wlen) : addr < addressSpace := by
  obtain ⟨-, hsrc, hdst, -⟩ := hfit
  obtain ⟨k, rfl, hk, -⟩ | ⟨m, rfl, hm, -⟩ := h <;> simp only [addressSpace] <;> omega

/-! ### Commands that end with BUS_ERROR -/

/-- Buffers that fit pass every buffer check (R203 to R205). -/
theorem BuffersFit.bufferCheck {s : State} {wlen : Nat} (h : BuffersFit s wlen) : s.bufferCheck wlen = none := by
  obtain ⟨hcap, hsrc, hdst, hdisjoint⟩ := h
  exact State.bufferCheck_eq_none.mpr ⟨hcap, hsrc, hdst, rangesOverlap_eq_false.mpr (by omega)⟩

/-- The length an encryption writes, by the identity of R137. -/
theorem ctlen_eq_cipherLength (n : Nat) : ctlen n = cipherLength n := by
  simp only [ctlen, fillOf, cipherLength]
  omega

/-- An encryption whose checks pass ends with BUS_ERROR at its first refused access. -/
theorem State.encrypt_of_firstRefused {s : State} {y : Access} (hcheck : s.encCheck = none)
    (hy : s.plat.firstRefused (encAccesses s.srcAddr.toNat s.srcLen.toNat s.dstAddr.toNat) = some y)
    (x : TableSelect) (o : ByteOrder) :
    ∃ q, s.encrypt x o =
      ({ s with seq := q }.scrambleDestination (ctlen s.srcLen.toNat)).raiseError (.busError y.addr) := by
  rcases s.encrypt_cases x o with ⟨e, he, -⟩ | ⟨-, z, q, hz, heq⟩ | ⟨-, hnone, -⟩
  · simp [hcheck] at he
  · cases hy.symm.trans hz
    exact ⟨q, heq⟩
  · simp [hy] at hnone

/-- A decryption whose checks pass ends with BUS_ERROR at its first refused access. -/
theorem State.decrypt_of_firstRefused {s : State} {y : Access} (hcheck : s.decCheck = none)
    (hy : s.plat.firstRefused (decAccesses s.srcAddr.toNat s.srcLen.toNat s.dstAddr.toNat) = some y)
    (x : TableSelect) (o : ByteOrder) :
    ∃ q, s.decrypt x o =
      ({ s with seq := q }.scrambleDestination s.srcLen.toNat).raiseError (.busError y.addr) := by
  rcases s.decrypt_cases x o with ⟨e, he, -⟩ | ⟨-, z, q, hz, heq⟩ | ⟨-, hnone, -⟩
  · simp [hcheck] at he
  · cases hy.symm.trans hz
    exact ⟨q, heq⟩
  · simp [hy] at hnone

/-- What a command that ended with BUS_ERROR at `addr` leaves: the address in ERR_ADDR, every result and operand
register, and memory outside its destination (R206, R210, R211). -/
theorem busError_outcome (s : State) (q : Sequencer) (wlen : Nat) {addr : Nat} (hm : s.mem.wf = true)
    (haddr : addr < addressSpace) {t : State}
    (ht : t = ({ s with seq := q }.scrambleDestination wlen).raiseError (.busError addr)) :
    t.errAddr.toNat = addr ∧ FailedWith s t 6 ∧
      ∀ x, x < s.dstAddr.toNat ∨ s.dstAddr.toNat + wlen ≤ x → t.mem.readByte x = s.mem.readByte x := by
  subst ht
  refine ⟨Nat.mod_eq_of_lt haddr, ⟨⟨rfl, rfl, rfl, rfl, rfl⟩, ⟨rfl, rfl, rfl, rfl, rfl, rfl, rfl, rfl, rfl, rfl⟩,
    ⟨rfl, rfl⟩, ⟨rfl, rfl⟩, ⟨rfl, rfl, rfl, rfl, rfl⟩⟩, fun x hx => ?_⟩
  have hsize := (State.destinationSize_le { s with seq := q } wlen).2
  rw [State.raiseError_mem, State.readByte_scrambleDestination { s with seq := q } wlen x hm, if_neg]
  rintro ⟨⟨hlo, hhi⟩, -⟩
  simp only at hlo hhi
  omega

/-- A decryption of a legal length is checked for its buffers alone (R202, R208). -/
theorem CipherLengthLegal.decCheck {s : State} (h : CipherLengthLegal s.srcLen.toNat) :
    s.decCheck = s.bufferCheck s.srcLen.toNat := by
  obtain ⟨hmin, hblocks⟩ := h
  exact if_neg (by omega)

/-- Settles O44: the refused access is the first in the order of times, and `busError_outcome` is what it leaves. -/
theorem encryptionBusErrorReportsTheFirstRefusal : Obligations.EncryptionBusErrorReportsTheFirstRefusal := by
  intro s o i addr hi hm hfit hrefused
  obtain ⟨x, hexec⟩ : ∃ x, exec i s = .next (s.encrypt x o) := by
    rcases hi with rfl | rfl <;> exact ⟨_, rfl⟩
  change FirstRefusedAt s (fillOf s.srcLen.toNat) (cipherLength s.srcLen.toNat) addr at hrefused
  rw [← ctlen_eq_cipherLength] at hfit hrefused ⊢
  have haddr := hrefused.lt_addressSpace hfit
  obtain ⟨y, hy, rfl⟩ := hrefused.firstRefused (ctlen_dvd _) (by rw [ctlen]; omega)
  rw [← encAccesses_eq] at hy
  obtain ⟨q, heq⟩ := State.encrypt_of_firstRefused hfit.bufferCheck hy x o
  exact ⟨_, hexec, busError_outcome s q _ hm haddr heq⟩

/-- Settles O45: as O44, with no header before the source bytes. -/
theorem decryptionBusErrorReportsTheFirstRefusal : Obligations.DecryptionBusErrorReportsTheFirstRefusal := by
  intro s o i addr hi hm hlegal hfit hrefused
  obtain ⟨x, hexec⟩ : ∃ x, exec i s = .next (s.decrypt x o) := by
    rcases hi with rfl | rfl <;> exact ⟨_, rfl⟩
  replace hrefused : FirstRefusedAt s 0 s.srcLen.toNat addr := by
    simpa only [FirstRefusedAt, Nat.zero_add] using hrefused
  have haddr := hrefused.lt_addressSpace hfit
  obtain ⟨y, hy, rfl⟩ := hrefused.firstRefused hlegal.2 (by omega)
  rw [← decAccesses_eq] at hy
  obtain ⟨q, heq⟩ := State.decrypt_of_firstRefused (hlegal.decCheck.trans hfit.bufferCheck) hy x o
  exact ⟨_, hexec, busError_outcome s q _ hm haddr heq⟩

end Sys2Proof.Machine

/-! PROOFS. The command words of spec 30_encoding.md R101 to R109: the fields of a word, what decoding them can do, and
the words of the table. -/

namespace Sys2Proof

/-! ### The fields of a word, as numbers (R101) -/

@[simp] theorem CommandFields.ofWord_op_toNat (w : Word) : (ofWord w).op.toNat = w.toNat % 16 := by
  simp [ofWord]

@[simp] theorem CommandFields.ofWord_tsel_toNat (w : Word) : (ofWord w).tsel.toNat = w.toNat / 16 % 2 :=
  Nat.toNat_testBit w.toNat 4

@[simp] theorem CommandFields.ofWord_ord_toNat (w : Word) : (ofWord w).ord.toNat = w.toNat / 32 % 2 :=
  Nat.toNat_testBit w.toNat 5

@[simp] theorem CommandFields.ofWord_rsv_toNat (w : Word) : (ofWord w).rsv.toNat = w.toNat / 64 := by
  have := w.isLt
  simp only [ofWord, BitVec.extractLsb'_toNat, Nat.shiftRight_eq_div_pow]
  omega

/-- A command word as a number: one weight per field. -/
theorem CommandFields.toWord_toNat (f : CommandFields) :
    f.toWord.toNat = f.op.toNat + 16 * f.tsel.toNat + 32 * f.ord.toNat + 64 * f.rsv.toNat := by
  simp only [toWord, Machine.toNat_append_eq_add, BitVec.toNat_ofBool]
  omega

/-- No bit of a word is lost in its fields. -/
theorem CommandFields.toWord_ofWord (w : Word) : (ofWord w).toWord = w := by
  refine BitVec.eq_of_toNat_eq ?_
  simp only [toWord_toNat, ofWord_op_toNat, ofWord_tsel_toNat, ofWord_ord_toNat, ofWord_rsv_toNat]
  omega

/-- The four causes of R107, as numbers. -/
theorem CommandFields.legal_eq_false {f : CommandFields} : f.legal = false ↔
    (f.op.toNat = 0 ∨ 8 ≤ f.op.toNat) ∨ f.rsv.toNat ≠ 0 ∨
    (f.tsel.toNat = 1 ∧ f.op.toNat ≠ 6 ∧ f.op.toNat ≠ 7) ∨
    (f.ord.toNat = 1 ∧ (f.op.toNat = 4 ∨ f.op.toNat = 5)) := by
  have hop : f.opNamed = false ↔ f.op.toNat = 0 ∨ 8 ≤ f.op.toNat := by
    simp [opNamed, BitVec.ult, BitVec.toNat_eq, imp_iff_not_or]
  have hrsv : f.rsvClear = false ↔ f.rsv.toNat ≠ 0 := by
    simp [rsvClear, BitVec.toNat_eq]
  have htsel : f.tselAllowed = false ↔ f.tsel.toNat = 1 ∧ f.op.toNat ≠ 6 ∧ f.op.toNat ≠ 7 := by
    simp [tselAllowed, BitVec.toNat_eq, and_assoc]
  have hord : f.ordAllowed = false ↔ f.ord.toNat = 1 ∧ (f.op.toNat = 4 ∨ f.op.toNat = 5) := by
    simp [ordAllowed, BitVec.toNat_eq, imp_iff_not_or]
  simp only [legal, Bool.and_eq_false_iff, hop, hrsv, htsel, hord, or_assoc]

/-- A byte order is what its `ORD` bit says (R104). -/
@[simp] theorem ByteOrder.toOrd_ofOrd (ord : Bool) : (ByteOrder.ofOrd ord).toOrd = ord := by cases ord <;> rfl

/-! ### What decoding can do (R107, R109) -/

/-- What decoding may answer of some fields: a command that has these fields, or a reason when they are illegal. -/
inductive Decoded (f : CommandFields) : Except DecodeError Instr → Prop
  | command {i : Instr} (hf : f = encodeFields i) : Decoded f (.ok i)
  | illegal {e : DecodeError} (hf : f.legal = false) : Decoded f (.error e)

/-- Fields with the values that the table of R102 gives a command are that command's. -/
theorem eq_encodeFields {f : CommandFields} {i : Instr} (hop : f.op.toNat = (encodeFields i).op.toNat)
    (htsel : f.tsel = (encodeFields i).tsel) (hord : f.ord = (encodeFields i).ord)
    (hrsv : f.rsv = (encodeFields i).rsv) : f = encodeFields i := by
  obtain ⟨op, tsel, ord, rsv⟩ := f
  obtain rfl := BitVec.eq_of_toNat_eq hop
  subst htsel hord hrsv
  rfl

/-- An operation that selects no table, with its `TSEL` (R103). -/
theorem withoutTable_decoded {f : CommandFields} {i : Instr} (hill : f.tsel = true → f.legal = false)
    (hf : f.tsel = false → f = encodeFields i) : Decoded f (withoutTable f.tsel i) := by
  unfold withoutTable
  split_ifs with h
  · exact .illegal (hill h)
  · exact .command (hf (by simpa using h))

/-- An operation that has no byte order, with its `ORD` (R104). -/
theorem withoutOrder_decoded {f : CommandFields} {i : Instr} (hill : f.ord = true → f.legal = false)
    (hf : f.ord = false → f = encodeFields i) : Decoded f (withoutOrder f.ord i) := by
  unfold withoutOrder
  split_ifs with h
  · exact .illegal (hill h)
  · exact .command (hf (by simpa using h))

/-- One case per arm of the decoder: its rejections are the causes of R107, and what it accepts has the fields of the
table. -/
theorem decodeFields_decoded (f : CommandFields) : Decoded f (decodeFields f) := by
  have legal := f.legal_eq_false
  fun_cases decodeFields f with
  | case1 hrsv => exact .illegal (legal.mpr (.inr (.inl (by simpa [BitVec.toNat_eq] using hrsv))))
  | case2 o hrsv hop | case3 o hrsv hop | case4 o hrsv hop =>
    exact withoutTable_decoded (fun ht => legal.mpr (by simp [ht, hop]))
      fun ht => eq_encodeFields hop ht (by simp [encodeFields, o]) (not_not.mp hrsv)
  | case5 hrsv hop ht | case7 hrsv hop ht => exact .illegal (legal.mpr (by simp [ht, hop]))
  | case6 hrsv hop ht | case8 hrsv hop ht =>
    exact withoutOrder_decoded (fun ho => legal.mpr (by simp [ho, hop]))
      fun ho => eq_encodeFields hop (eq_false_of_ne_true ht) ho (not_not.mp hrsv)
  | case9 o hrsv hop | case10 o hrsv hop =>
    split_ifs with ht
    · exact .command (eq_encodeFields hop ht (by simp [encodeFields, o]) (not_not.mp hrsv))
    · exact .command (eq_encodeFields hop (eq_false_of_ne_true ht) (by simp [encodeFields, o]) (not_not.mp hrsv))
  | case11 hrsv h1 h2 h3 h4 h5 h6 h7 =>
    simp only [imp_false] at h1 h2 h3 h4 h5 h6 h7
    exact .illegal (legal.mpr (.inl (by omega)))

/-- The fields of a command are legal (R102, R107). -/
theorem legal_encodeFields (i : Instr) : (encodeFields i).legal = true := by
  cases i with
  | ctlen | ptlen => rfl
  | _ o => cases o <;> rfl

/-- A command's word decodes to the command (R102). -/
theorem decode_encode (i : Instr) : decode (encode i) = .ok i := by
  have h := Machine.decode_commandWordOf_encode i
  rwa [commandWordOf, Nat.mod_eq_of_lt (encode i).isLt, BitVec.ofNat_toNat, BitVec.setWidth_eq] at h

/-- A word decodes to a command exactly when it is that command's: its fields are, and no bit is lost in them. -/
theorem decode_eq_ok {w : Word} {i : Instr} : decode w = .ok i ↔ w = encode i := by
  refine ⟨fun h => ?_, fun h => h ▸ decode_encode i⟩
  have hd := decodeFields_decoded (CommandFields.ofWord w)
  rw [show decodeFields (CommandFields.ofWord w) = .ok i from h] at hd
  cases hd with
  | command hf => rw [encode, ← hf, CommandFields.toWord_ofWord]

/-- A word is illegal exactly when its fields are. -/
theorem exists_decode_eq_error {w : Word} : (∃ e, decode w = .error e) ↔ (CommandFields.ofWord w).legal = false := by
  have hd : Decoded (CommandFields.ofWord w) (decode w) := decodeFields_decoded _
  generalize decode w = r at hd
  cases hd with
  | command hf => simp [hf, legal_encodeFields]
  | illegal hf => simp [hf]

/-! ### The 16 words (R102) -/

/-- The commands of the table of R102. -/
def allCommands : List Instr :=
  [.ctlen, .ptlen] ++ [ByteOrder.normalizing, .native].flatMap fun o =>
    [.bswap16 o, .bswap32 o, .bswap64 o, .encb o, .encc o, .decb o, .decc o]

theorem mem_allCommands (i : Instr) : i ∈ allCommands := by
  cases i with
  | ctlen | ptlen => decide
  | _ o => cases o <;> decide

/-! ### The statements -/

/-- Settles O1: decoding is inverse to encoding in both directions. -/
theorem decodeReadsExactlyWhatEncodeWrites : Obligations.DecodeReadsExactlyWhatEncodeWrites :=
  fun _ _ => decode_eq_ok

/-- Settles O2: the causes are those of the word's fields, and the legal words are those of the 16 commands. -/
theorem illegalWordsAreTheFourCauses : Obligations.IllegalWordsAreTheFourCauses := by
  refine ⟨fun w => ?_, allCommands.map encode, by decide, rfl, fun w => ?_⟩
  · rw [exists_decode_eq_error, CommandFields.legal_eq_false, CommandFields.ofWord_op_toNat,
      CommandFields.ofWord_rsv_toNat, CommandFields.ofWord_tsel_toNat, CommandFields.ofWord_ord_toNat]
  · simp only [List.mem_map, mem_allCommands, true_and, decode_eq_ok, eq_comm (a := w)]

/-- Settles O3, word by word. -/
theorem tableWordsDecodeToTheirCommands : Obligations.TableWordsDecodeToTheirCommands := by
  unfold Obligations.TableWordsDecodeToTheirCommands
  decide

end Sys2Proof

/-! PROOFS. The host's moves of spec 30_encoding.md R110 and R111: stores and loads of memory, and the WAIT loop. -/

namespace Sys2Proof.Machine

/-! ### The running command's ranges, on the host's turn (R93, R238) -/

/-- A host turn leaves the command that runs: only its wait changes. -/
theorem State.afterMove_runningCommand (s : State) : s.afterMove.runningCommand = s.runningCommand := by
  cases h : s.engine with
  | idle => simp [State.afterMove_of_idle h, State.runningCommand]
  | run w k =>
    obtain ⟨k', hk⟩ := State.ticked_engine_of_run h
    simp [s.afterMove_eq, State.runningCommand, h, hk]

theorem State.afterMove_runningWriteLength (s : State) : s.afterMove.runningWriteLength = s.runningWriteLength := by
  rw [State.runningWriteLength, State.afterMove_runningCommand, s.afterMove_eq]
  rfl

@[simp] theorem State.afterMove_inRunningDst (s : State) (x : Nat) : s.afterMove.inRunningDst x = s.inRunningDst x := by
  rw [State.inRunningDst, State.afterMove_runningWriteLength, s.afterMove_eq]
  rfl

@[simp] theorem State.afterMove_inRunningSrc (s : State) (x : Nat) : s.afterMove.inRunningSrc x = s.inRunningSrc x := by
  rw [State.inRunningSrc, State.afterMove_runningWriteLength, s.afterMove_eq]
  rfl

@[simp] theorem State.afterMove_stale (s : State) (x : Nat) : s.afterMove.stale x = s.stale x := by
  rw [s.afterMove_eq]
  rfl

@[simp] theorem State.afterMove_mem (s : State) : s.afterMove.mem = s.mem := by rw [s.afterMove_eq]

@[simp] theorem State.afterMove_names (s : State) : s.afterMove.names = s.names := by rw [s.afterMove_eq]

/-! ### Stores and loads (R110) -/

theorem rangeExists_eq_true {a : Word} {n : Nat} : rangeExists a n = true ↔ a.toNat + n ≤ addressSpace := by
  simp [rangeExists]

/-- A store of bytes that exist and that the host may store writes them outside the window (log 18). -/
theorem State.hostStore_of_allowed {s : State} {a : Word} {bs : List Byte}
    (hexists : a.toNat + bs.length ≤ addressSpace) (hallowed : ∀ i < bs.length, s.storeAllowed (a.toNat + i) = true) :
    s.hostStore a bs = .next { s with mem := s.mem.writeBytesExcept s.plat.inWindow a.toNat bs } := by
  have hall : ((List.range bs.length).all fun i => s.storeAllowed (a.toNat + i)) = true := by simpa using hallowed
  rw [State.hostStore, rangeExists_eq_true.mpr hexists, hall]
  rfl

/-- A load of bytes that exist and that the host may load names them (log 13). -/
theorem State.hostLoad_of_allowed {s : State} {a : Word} {n x : Nat} (hexists : a.toNat + n ≤ addressSpace)
    (hallowed : ∀ i < n, s.loadAllowed (a.toNat + i) = true) :
    s.hostLoad a n x = .next { s with
      names := (x, .bytes ((List.range n).map (s.hostLoadByte a.toNat))) :: s.names
      draws := s.draws + n } := by
  have hall : ((List.range n).all fun i => s.loadAllowed (a.toNat + i)) = true := by simpa using hallowed
  rw [State.hostLoad, rangeExists_eq_true.mpr hexists, hall]
  rfl

/-- Settles O52: the store is allowed, and `readByte_writeBytesExcept` says what it writes. -/
theorem hostStoreWritesItsBytes : Obligations.HostStoreWritesItsBytes := by
  intro s a bs hturn hm hexists hoff
  have hallowed (i : Nat) (hi : i < bs.length) : s.afterMove.storeAllowed (a.toNat + i) = true := by
    rcases hoff (a.toNat + i) (by omega) (by omega) with hw | ⟨hsrc, hdst⟩
    · simp [State.storeAllowed, hw]
    · simp [State.storeAllowed, hsrc, hdst]
  have hstep := step_of_hostTurn hturn
  rw [State.runMove, State.hostStore_of_allowed hexists hallowed] at hstep
  refine ⟨_, hstep, rfl, fun x => ?_⟩
  simpa using Memory.readByte_writeBytesExcept s.plat.inWindow a.toNat x bs hm hexists

/-! ### Staleness (R96, log 13) -/

theorem State.stale_of_coherent {s : State} (h : s.plat.dmaCoherent = true) (y : Nat) : s.stale y = false := by
  simp [State.stale, h]

/-- An invalidation leaves no byte of its range stale, and every other byte as it was. -/
theorem State.stale_invalidated (s : State) (a n y : Nat) :
    State.stale { s with coherence := .invalidated a n :: s.coherence } y =
      if a ≤ y ∧ y < a + n then false else s.stale y := by
  have hcovers : (CoherenceEvent.invalidated a n).covers y = decide (a ≤ y ∧ y < a + n) := by
    simp [CoherenceEvent.covers]
  split_ifs with h
  · simp [State.stale, hcovers, h]
  · simp only [State.stale, List.find?_cons, hcovers, h, decide_false]

/-- Settles O54: the load is allowed; staleness is the newest event about a byte. -/
theorem hostLoadReturnsMemory : Obligations.HostLoadReturnsMemory := by
  refine ⟨fun s a n x hturn hexists hfresh => ?_, fun s y h => State.stale_of_coherent h y, fun s a n hturn => ?_⟩
  · have hallowed (i : Nat) (hi : i < n) : s.afterMove.loadAllowed (a.toNat + i) = true := by
      rcases hfresh i hi with h | h | h <;> simp [State.loadAllowed, h]
    have hstep := step_of_hostTurn hturn
    rw [State.runMove, State.hostLoad_of_allowed hexists hallowed, State.afterMove_names] at hstep
    refine ⟨_, _, hstep, by simp, fun i hi hwindow hdst => ?_⟩
    simp [List.getD_eq_getElem?_getD, hi, State.hostLoadByte, hwindow, hdst]
  · refine ⟨_, step_of_hostTurn hturn, rfl, fun y => ?_⟩
    rw [State.stale_invalidated, State.afterMove_stale]

/-! ### The WAIT loop (R111) -/

/-- The WAIT loop stands at index `p`, on a platform where the address of STATUS is aligned (R21). -/
structure WaitCode (s : State) (p x : Nat) : Prop where
  read : s.prog[p]? = some (.rd 0x008 .w32 x)
  branch : s.prog[p + 1]? = some (.bnz x 0x1 p)
  aligned : s.plat.alignedAt 0x008 = true

/-- The host is in the WAIT loop: at the read, or at the branch with a word that has the BUSY bit. -/
structure InWaitLoop (s : State) (p x : Nat) : Prop where
  code : WaitCode s p x
  position : s.hpc = p ∨ (s.hpc = p + 1 ∧ ∃ v, s.namedWord x = some v ∧ v &&& 0x1 ≠ 0)

/-- Within `n` steps the host is past the WAIT loop at `p`, with the command complete. -/
def LeavesWaitWithin (n : Nat) (s : State) (p : Nat) : Prop :=
  ∃ j t, j ≤ n ∧ core.run j s = .next t ∧ t.hpc = p + 2 ∧ t.busy = false ∧ t.status.done = true

/-- A run starts with its first step. -/
theorem core_run_succ {s t : State} (h : step s = .next t) (k : Nat) : core.run (k + 1) s = core.run k t := by
  have hstep : core.step s = .next t := h
  simp only [Host.Core.run, hstep]

theorem LeavesWaitWithin.of_step {n p : Nat} {s s' : State} (hs : step s = .next s')
    (h : LeavesWaitWithin n s' p) : LeavesWaitWithin (n + 1) s p := by
  obtain ⟨j, t, hj, hrun, hexit⟩ := h
  exact ⟨j + 1, t, Nat.succ_le_succ hj, (core_run_succ hs j).trans hrun, hexit⟩

theorem LeavesWaitWithin.mono {m n p : Nat} {s : State} (h : LeavesWaitWithin m s p) (hmn : m ≤ n) :
    LeavesWaitWithin n s p := by
  obtain ⟨j, t, hj, hexit⟩ := h
  exact ⟨j, t, hj.trans hmn, hexit⟩

/-- Every command ends in a next state (R200). -/
theorem exec_next (i : Instr) (s : State) : ∃ t, exec i s = .next t := by cases i <;> exact ⟨_, rfl⟩

/-- So does the engine's turn, on an illegal word too (R201). -/
theorem engineTurn_next (w : Word) (s : State) : ∃ t, engineTurn w s = .next t := by
  unfold engineTurn
  split
  · exact exec_next _ s
  · exact ⟨_, rfl⟩

/-- Bit 0 of STATUS is BUSY (R24, R25). -/
theorem State.statusWord_and_one (s : State) : s.statusWord &&& 0x1 ≠ 0 ↔ s.busy = true := by
  have hbit : (s.statusWord &&& 0x1).toNat = s.busy.toNat := by
    rw [BitVec.toNat_and, show (0x1 : Word).toNat = 1 from rfl, Nat.and_one_is_mod, s.statusWord_toNat]
    have := s.busy.toNat_lt
    omega
  rw [ne_eq, ← BitVec.toNat_inj, hbit]
  cases s.busy <;> simp

/-- A name that a read of a register has just given is the word it gave (R110). -/
theorem State.namedWord_cons (s : State) (x : Nat) (w : Word) :
    State.namedWord { s with names := (x, .word w) :: s.names } x = some w := by
  simp [State.namedWord]

section
variable {s t : State} {p x : Nat}

theorem WaitCode.of_same (h : WaitCode s p x) (hprog : t.prog = s.prog) (hplat : t.plat = s.plat) : WaitCode t p x where
  read := hprog ▸ h.read
  branch := hprog ▸ h.branch
  aligned := hplat ▸ h.aligned

/-- The read of the loop names STATUS. -/
theorem WaitCode.step_read (hc : WaitCode s p x) (hturn : ∀ w, s.engine ≠ .run w 0) (hp : s.hpc = p) :
    step s = .next { s.afterMove with names := (x, .word s.statusWord) :: s.names } :=
  step_of_hostReads ⟨⟨hturn, hp ▸ hc.read⟩, hc.aligned⟩

/-- The branch of the loop goes back exactly if the named word has bit 0. -/
theorem WaitCode.step_branch {v : Word} (hc : WaitCode s p x) (hturn : ∀ w, s.engine ≠ .run w 0) (hp : s.hpc = p + 1)
    (hv : s.namedWord x = some v) :
    step s = .next (if v &&& 0x1 ≠ 0 then { s.afterMove with hpc := p } else s.afterMove) := by
  have hnamed : s.afterMove.namedWord x = some v := by rw [s.afterMove_eq]; exact hv
  rw [step_of_hostTurn ⟨hturn, hp ▸ hc.branch⟩, State.runMove, State.branch, hnamed]

/-- While the command has moves left, a step keeps the host in the loop. -/
theorem InWaitLoop.step_waiting {w : Word} {k : Nat} (h : InWaitLoop s p x) (hrun : s.engine = .run w (k + 1)) :
    ∃ t, step s = .next t ∧ t.engine = .run w k ∧ InWaitLoop t p x := by
  obtain ⟨hc, hp | ⟨hp, v, hv, hbit⟩⟩ := h
  · have hbusy := s.statusWord_and_one.mpr (State.busy_of_run hrun)
    have hstep := hc.step_read (by simp [hrun]) hp
    rw [s.afterMove_eq] at hstep
    exact ⟨_, hstep, State.ticked_engine_of_wait hrun, hc.of_same rfl rfl,
      .inr ⟨congrArg (· + 1) hp, _, State.namedWord_cons s x _, hbusy⟩⟩
  · have hstep := hc.step_branch (by simp [hrun]) hp hv
    rw [if_pos hbit, s.afterMove_eq] at hstep
    exact ⟨_, hstep, State.ticked_engine_of_wait hrun, hc.of_same rfl rfl, .inl rfl⟩

/-- The completion of the command keeps the host in the loop. -/
theorem InWaitLoop.step_completing {w : Word} (h : InWaitLoop s p x) (hrun : s.engine = .run w 0) :
    ∃ t, step s = .next t ∧ t.engine = .idle ∧ t.status.done = true ∧ InWaitLoop t p x := by
  obtain ⟨hc, hpos⟩ := h
  obtain ⟨t, ht⟩ := engineTurn_next w s
  have heff := engineTurn_effect ht
  obtain ⟨hplat, -, hprog, hhpc, hnames⟩ := heff.sameOutside
  refine ⟨t, (step_of_run_zero hrun).trans ht, heff.engine_idle, heff.done, hc.of_same hprog hplat, ?_⟩
  simpa only [State.namedWord, hhpc, hnames] using hpos

/-- Once the command is complete, a branch on a word without the BUSY bit leaves the loop. -/
theorem WaitCode.leaves_of_branch {v : Word} (hc : WaitCode s p x) (hp : s.hpc = p + 1) (hidle : s.engine = .idle)
    (hdone : s.status.done = true) (hv : s.namedWord x = some v) (hbit : ¬v &&& 0x1 ≠ 0) :
    LeavesWaitWithin 1 s p := by
  have hstep := hc.step_branch (by simp [hidle]) hp hv
  rw [if_neg hbit, State.afterMove_of_idle hidle] at hstep
  exact .of_step hstep ⟨0, _, le_rfl, rfl, congrArg (· + 1) hp, State.busy_of_idle hidle, hdone⟩

/-- Once the command is complete, a read and a branch leave the loop. -/
theorem WaitCode.leaves_of_read (hc : WaitCode s p x) (hp : s.hpc = p) (hidle : s.engine = .idle)
    (hdone : s.status.done = true) : LeavesWaitWithin 2 s p := by
  have hstep := hc.step_read (by simp [hidle]) hp
  rw [State.afterMove_of_idle hidle] at hstep
  have hclear : ¬s.statusWord &&& 0x1 ≠ 0 := by
    rw [s.statusWord_and_one, State.busy_of_idle hidle]
    decide
  refine .of_step hstep ?_
  exact WaitCode.leaves_of_branch (hc.of_same rfl rfl) (congrArg (· + 1) hp) hidle hdone
    (State.namedWord_cons s x _) hclear

/-- Once the command is complete, the host leaves the loop from wherever it is. -/
theorem InWaitLoop.leaves_of_idle (h : InWaitLoop s p x) (hidle : s.engine = .idle)
    (hdone : s.status.done = true) : LeavesWaitWithin 3 s p := by
  obtain ⟨hc, hp | ⟨hp, v, hv, hbit⟩⟩ := h
  · exact (hc.leaves_of_read hp hidle hdone).mono (by decide)
  · have hstep := hc.step_branch (by simp [hidle]) hp hv
    rw [if_pos hbit, State.afterMove_of_idle hidle] at hstep
    refine .of_step hstep ?_
    exact WaitCode.leaves_of_read (hc.of_same rfl rfl) rfl hidle hdone

end

/-- A host in the loop leaves it, at the latest three steps after the completion. -/
theorem InWaitLoop.leaves {w : Word} {k p x : Nat} {s : State} (h : InWaitLoop s p x) (hrun : s.engine = .run w k) :
    LeavesWaitWithin (k + 4) s p := by
  induction k generalizing s with
  | zero =>
    obtain ⟨t, hstep, hidle, hdone, hin⟩ := h.step_completing hrun
    exact .of_step hstep (hin.leaves_of_idle hidle hdone)
  | succ k ih =>
    obtain ⟨t, hstep, hwait, hin⟩ := h.step_waiting hrun
    exact (LeavesWaitWithin.of_step hstep (ih hin hwait)).mono (by omega)

/-- Settles O14: the host is at the read of the loop. -/
theorem waitLoopEnds : Obligations.WaitLoopEnds :=
  fun _ _ _ _ hrun haligned hread hbranch => InWaitLoop.leaves ⟨⟨hread, hbranch, haligned⟩, .inl rfl⟩ hrun

end Sys2Proof.Machine

/-! PROOFS. The byte-order normalizer commands (spec 40_normalizer.md R120 to R125). -/

namespace Sys2Proof.Machine

/-! ### Byte swaps of every width (R120, R125) -/

/-- `f` mirrors the `k` bytes of a value: the general form of the swaps of R120. -/
def MirrorsBytes (k : Nat) (f : BitVec (8 * k) → BitVec (8 * k)) : Prop :=
  ∀ v, ∀ j < k, (f v).extractLsb' (8 * j) 8 = v.extractLsb' (8 * (k - 1 - j)) 8

theorem bswap16_mirrors : MirrorsBytes 2 bswap16 := by
  intro v j hj
  interval_cases j <;> simp [bswap16, extractLsb'_append_byte_zero, extractLsb'_append_byte_add]

theorem bswap32_mirrors : MirrorsBytes 4 bswap32 := by
  intro v j hj
  interval_cases j <;> simp [bswap32, extractLsb'_append_byte_zero, extractLsb'_append_byte_add]

theorem bswap64_mirrors : MirrorsBytes 8 bswap64 := fun v _ => bswap64_byte v

/-- `bswap16` exchanges the weights of its two bytes (R120). -/
theorem bswap16_toNat (v : BitVec 16) : (bswap16 v).toNat = v.toNat % 256 * 256 + v.toNat / 256 % 256 := by
  simp only [bswap16, toNat_append_eq_add, BitVec.extractLsb'_toNat, Nat.shiftRight_eq_div_pow, Nat.reducePow,
    Nat.div_one]

section
variable {k : Nat} {f : BitVec (8 * k) → BitVec (8 * k)} (hf : MirrorsBytes k f)
include hf

/-- A mirrored byte has the weight of its mirror image. -/
theorem MirrorsBytes.toNat_byte (v : BitVec (8 * k)) {j : Nat} (hj : j < k) :
    (f v).toNat / 256 ^ j % 256 = v.toNat / 256 ^ (k - 1 - j) % 256 := by
  have hbyte := congrArg BitVec.toNat (hf v j hj)
  simpa only [BitVec.extractLsb'_toNat, Nat.shiftRight_eq_div_pow, Nat.pow_mul] using hbyte

/-- Mirroring twice puts every byte back. -/
theorem MirrorsBytes.involutive : Function.Involutive f := fun v => by
  refine BitVec.eq_of_getLsbD_eq fun i hi => ?_
  have hbyte : (f (f v)).extractLsb' (8 * (i / 8)) 8 = v.extractLsb' (8 * (i / 8)) 8 := by
    rw [hf (f v) _ (by omega), hf v _ (by omega), Nat.sub_sub_self (by omega)]
  simpa [Nat.mod_lt, Nat.div_add_mod] using congrArg (·.getLsbD (i % 8)) hbyte

end

/-! ### What a swap command completes with (R41, R52, R54) -/

namespace State
variable (s : State)

theorem completeSwap_completedWith (r : DWord) : CompletedWith s (s.completeSwap r) 0 false :=
  ⟨rfl, rfl, rfl, rfl, rfl⟩

theorem completeSwap_sameButDout (r : DWord) : SameButDout s (s.completeSwap r) :=
  ⟨⟨rfl, rfl, rfl, rfl, rfl, rfl, rfl, rfl, rfl, rfl⟩, ⟨rfl, rfl⟩, ⟨rfl, rfl, rfl, rfl, rfl⟩,
    rfl, rfl, fun _ => rfl, rfl, rfl, rfl⟩

theorem din_toNat : s.din.toNat = s.dinHi.toNat * 4294967296 + s.dinLo.toNat := toNat_append_eq_add _ _

theorem dout_toNat : s.dout.toNat = s.doutHi.toNat * 4294967296 + s.doutLo.toNat := toNat_append_eq_add _ _

/-- The two result registers hold the whole result. -/
@[simp] theorem completeSwap_dout (r : DWord) : (s.completeSwap r).dout = r := BitVec.extractLsb'_append_extractLsb'

/-- A result of up to 32 bits stands in the low register, zero-extended. -/
theorem completeSwap_setWidth_doutLo {n : Nat} (r : BitVec n) :
    (s.completeSwap (r.setWidth 64)).doutLo = r.setWidth 32 := by
  rw [completeSwap_doutLo, ← BitVec.setWidth_eq_extractLsb' (by decide), BitVec.setWidth_setWidth_of_le _ (by decide)]

/-- The high register is then 0 (R122, R123). -/
theorem completeSwap_setWidth_doutHi {n : Nat} (hn : n ≤ 32) (r : BitVec n) :
    (s.completeSwap (r.setWidth 64)).doutHi = 0 := by
  have hlt : r.toNat < 2 ^ 32 := r.isLt.trans_le (Nat.pow_le_pow_right (by decide) hn)
  refine BitVec.eq_of_toNat_eq ?_
  simp only [completeSwap_doutHi, BitVec.extractLsb'_toNat, BitVec.toNat_setWidth, Nat.shiftRight_eq_div_pow,
    BitVec.ofNat_eq_ofNat, BitVec.toNat_ofNat]
  omega

end State

/-! ### BSWAP16's words (R122) -/

/-- A word with BSWAP16's OP that is not one of its two words is illegal (R107, R122). -/
theorem exists_decode_eq_error_of_bswap16_op {w : Word} (hop : w.toNat % 16 = 1) (hnorm : w ≠ 0x00000001)
    (hnat : w ≠ 0x00000021) : ∃ e, decode w = .error e := by
  rw [exists_decode_eq_error, CommandFields.legal_eq_false, CommandFields.ofWord_op_toNat,
    CommandFields.ofWord_rsv_toNat, CommandFields.ofWord_tsel_toNat, CommandFields.ofWord_ord_toNat]
  rw [BitVec.toNat_ne] at hnorm hnat
  simp only [BitVec.toNat_ofNat, BitVec.ofNat_eq_ofNat] at hnorm hnat
  omega

/-! ### A swap command on its own output (R125) -/

/-- BSWAP16 on its own output restores the low half of its input (R125). -/
theorem bswap16_of_own_output {s u t t' : State} (hs : exec (.bswap16 .normalizing) s = .next t)
    (hin : u.dinLo = t.doutLo) (hu : exec (.bswap16 .normalizing) u = .next t') :
    t'.doutLo.toNat = s.dinLo.toNat % 65536 := by
  obtain rfl : s.completeSwap ((bswap16 (s.dinLo.extractLsb' 0 16)).setWidth 64) = t := Host.Outcome.next.inj hs
  obtain rfl : u.completeSwap ((bswap16 (u.dinLo.extractLsb' 0 16)).setWidth 64) = t' := Host.Outcome.next.inj hu
  rw [State.completeSwap_setWidth_doutLo] at hin
  have hlow : u.dinLo.extractLsb' 0 16 = bswap16 (s.dinLo.extractLsb' 0 16) := by
    rw [hin, BitVec.extractLsb'_setWidth_of_le (by decide), BitVec.extractLsb'_eq_self]
  rw [State.completeSwap_setWidth_doutLo, BitVec.toNat_setWidth_of_le (by decide), hlow, bswap16_mirrors.involutive]
  exact BitVec.extractLsb'_toNat ..

/-- BSWAP32 on its own output restores its input (R125). -/
theorem bswap32_of_own_output {s u t t' : State} (hs : exec (.bswap32 .normalizing) s = .next t)
    (hin : u.dinLo = t.doutLo) (hu : exec (.bswap32 .normalizing) u = .next t') : t'.doutLo = s.dinLo := by
  obtain rfl : s.completeSwap ((bswap32 s.dinLo).setWidth 64) = t := Host.Outcome.next.inj hs
  obtain rfl : u.completeSwap ((bswap32 u.dinLo).setWidth 64) = t' := Host.Outcome.next.inj hu
  rw [State.completeSwap_setWidth_doutLo, BitVec.setWidth_eq] at hin ⊢
  rw [hin, bswap32_mirrors.involutive]

/-- BSWAP64 on its own output restores its input (R125). -/
theorem bswap64_of_own_output {s u t t' : State} (hs : exec (.bswap64 .normalizing) s = .next t)
    (hlo : u.dinLo = t.doutLo) (hhi : u.dinHi = t.doutHi) (hu : exec (.bswap64 .normalizing) u = .next t') :
    t'.doutLo = s.dinLo ∧ t'.doutHi = s.dinHi := by
  obtain rfl : s.completeSwap (bswap64 s.din) = t := Host.Outcome.next.inj hs
  obtain rfl : u.completeSwap (bswap64 u.din) = t' := Host.Outcome.next.inj hu
  have hin : u.din = bswap64 s.din := by
    rw [State.din, hlo, hhi]
    exact s.completeSwap_dout _
  rw [hin, bswap64_mirrors.involutive]
  exact ⟨BitVec.extractLsb'_append_eq_right, BitVec.extractLsb'_append_eq_left⟩

/-! ### The statements -/

/-- Settles O24: `DOUT` is the swap of `DIN`, and a swap mirrors the weights of the bytes. -/
theorem bswap64Completes : Obligations.Bswap64Completes := by
  refine ⟨fun _ => decode_eq_ok, fun _ => decode_eq_ok, fun s o =>
    ⟨_, rfl, fun j hj => ?_, s.completeSwap_completedWith _, s.completeSwap_sameButDout _⟩⟩
  rw [← State.dout_toNat, ← State.din_toNat, State.completeSwap_dout]
  cases o with
  | normalizing => exact bswap64_mirrors.toNat_byte s.din hj
  | native => rfl

/-- Settles O25: a swap mirrors the bytes, so it is an involution. -/
theorem swapsAreInvolutions : Obligations.SwapsAreInvolutions :=
  ⟨bswap16_mirrors.involutive, bswap32_mirrors.involutive, bswap64_mirrors.involutive,
    bswap16_mirrors.involutive.bijective, bswap32_mirrors.involutive.bijective, bswap64_mirrors.involutive.bijective,
    fun _ _ _ _ => bswap16_of_own_output, fun _ _ _ _ => bswap32_of_own_output,
    fun _ _ _ _ => bswap64_of_own_output, fun _ => storeBlock_loadBlock .normalizing⟩

/-- Settles O22: the two bytes of the low half of `DIN_LO` change places. -/
theorem bswap16Completes : Obligations.Bswap16Completes := by
  refine ⟨fun _ => decode_eq_ok, fun _ => decode_eq_ok, fun _ => exists_decode_eq_error_of_bswap16_op, fun s o =>
    ⟨_, rfl, s.completeSwap_setWidth_doutHi (by decide) _, ?_, s.completeSwap_completedWith _,
      s.completeSwap_sameButDout _⟩⟩
  have hlow : (s.dinLo.extractLsb' 0 16).toNat = s.dinLo.toNat % 65536 := BitVec.extractLsb'_toNat ..
  rw [State.completeSwap_setWidth_doutLo, BitVec.toNat_setWidth_of_le (by decide)]
  cases o with
  | normalizing =>
    simp only [inOrder, bswap16_toNat, hlow]
    omega
  | native => exact hlow

/-- Settles O23: the result fits the low register, and a swap mirrors the weights of the bytes. -/
theorem bswap32Completes : Obligations.Bswap32Completes := by
  refine ⟨fun _ => decode_eq_ok, fun _ => decode_eq_ok, fun s o =>
    ⟨_, rfl, s.completeSwap_setWidth_doutHi (by decide) _, fun j hj => ?_, s.completeSwap_completedWith _,
      s.completeSwap_sameButDout _⟩⟩
  rw [State.completeSwap_setWidth_doutLo, BitVec.setWidth_eq]
  cases o with
  | normalizing => exact bswap32_mirrors.toNat_byte s.dinLo hj
  | native => rfl

end Sys2Proof.Machine

/-! PROOFS. The length functions and the length commands (spec 41_length.md R135 to R142). -/

namespace Sys2Proof.Machine

/-! ### The lengths as numbers (R136 to R139) -/

/-- The ciphertext length passes 2^32 - 1 exactly from `0xFFFFFFEF` on (R137). -/
theorem two_pow_32_le_ctlen {n : Nat} : 4294967296 ≤ ctlen n ↔ 0xFFFFFFEF ≤ n := by
  rw [ctlen_eq_cipherLength, cipherLength]
  omega

theorem hdroff_eq (b : Byte) : hdroff b = b.toNat % 8 + 3 := by
  simp [hdroff, BitVec.extractLsb'_toNat]

/-- The header offset of `ARG`'s first byte is that of `ARG` (R142). -/
theorem State.hdroff_firstByte (s : State) : hdroff s.firstByte = s.arg.toNat % 8 + 3 := by
  rw [hdroff_eq, firstByte, BitVec.extractLsb'_toNat, Nat.shiftRight_zero]
  omega

/-! ### The header byte (R140, R171) -/

theorem pad_headD (src : List Byte) (f : Vector Word 3) :
    (pad src f).headD 0 = 0xF8 ||| BitVec.ofNat 8 (fillOf src.length - 3) := by
  rw [pad, ctlen, List.range_succ_eq_map]
  rfl

/-- A header byte holds its offset less 3 in the low three bits (R138, R171). -/
theorem hdroff_headerByte {k : Nat} (hk : 3 ≤ k ∧ k ≤ 10) : hdroff (0xF8 ||| BitVec.ofNat 8 (k - 3)) = k := by
  obtain ⟨hlow, hhigh⟩ := hk
  interval_cases k <;> rfl

/-- A header byte at offset `fillOf n` gives the plaintext length back (R140). -/
theorem ptlen_ctlen {n : Nat} {b : Byte} (hb : hdroff b = fillOf n) : ptlen (ctlen n) b = n := by
  rw [ptlen, ctlen, hb]
  omega

/-! ### What a length command completes with (R28, R37, R38, R52, R54) -/

namespace State
variable (s : State)

theorem completeLength_completedWith (v : Int) (off : Nat) :
    CompletedWith s (s.completeLength v off) 0 (lengthOutOfRange v) :=
  ⟨rfl, rfl, rfl, rfl, rfl⟩

theorem completeLength_sameButLengths (v : Int) (off : Nat) : SameButLengths s (s.completeLength v off) :=
  ⟨⟨rfl, rfl, rfl, rfl, rfl, rfl, rfl, rfl, rfl, rfl⟩, ⟨rfl, rfl⟩, ⟨rfl, rfl, rfl, rfl, rfl⟩,
    rfl, rfl, fun _ => rfl, rfl, rfl, rfl⟩

/-- RESULT_LEN is the length modulo 2^32 (R37). -/
theorem completeLength_resultLen_toNat (v : Int) (off : Nat) :
    ((s.completeLength v off).resultLen.toNat : Int) = v % 4294967296 := by
  rw [completeLength_resultLen, BitVec.toNat_ofInt]
  exact Int.toNat_of_nonneg (Int.emod_nonneg v (by decide))

/-- A header offset fits RESULT_OFF (R38). -/
theorem completeLength_resultOff_toNat (v : Int) {off : Nat} (hoff : 3 ≤ off ∧ off ≤ 10) :
    (s.completeLength v off).resultOff.toNat = off := by
  rw [completeLength_resultOff, BitVec.toNat_ofNat]
  omega

end State

/-- CTLEN's length leaves 32 bits exactly from `0xFFFFFFEF` on (R137, R141). -/
theorem lengthOutOfRange_ctlen (n : Nat) : lengthOutOfRange (ctlen n) = decide (0xFFFFFFEF ≤ n) := by
  refine decide_eq_decide.mpr ?_
  rw [← two_pow_32_le_ctlen, addressSpace]
  omega

/-- PTLEN's length leaves 32 bits exactly when it is negative (R142). -/
theorem lengthOutOfRange_ptlen {len : Nat} (hlen : len < addressSpace) (b : Byte) :
    lengthOutOfRange (ptlen len b) = decide (len < 7 + hdroff b) := by
  refine decide_eq_decide.mpr ?_
  rw [ptlen]
  omega

/-! ### CTLEN's word (R141) -/

/-- A word with CTLEN's OP that is not CTLEN's word is illegal (R107, R141). -/
theorem exists_decode_eq_error_of_ctlen_op {w : Word} (hop : w.toNat % 16 = 4) (hw : w ≠ 0x00000004) :
    ∃ e, decode w = .error e := by
  rw [exists_decode_eq_error, CommandFields.legal_eq_false, CommandFields.ofWord_op_toNat,
    CommandFields.ofWord_rsv_toNat, CommandFields.ofWord_tsel_toNat, CommandFields.ofWord_ord_toNat]
  rw [BitVec.toNat_ne] at hw
  simp only [BitVec.toNat_ofNat, BitVec.ofNat_eq_ofNat] at hw
  omega

/-! ### The statements -/

/-- Settles O28: the length is exact as an integer, so it is out of range exactly when it is negative. -/
theorem ptlenCompletes : Obligations.PtlenCompletes := by
  refine ⟨fun _ => decode_eq_ok, fun s => ⟨s.completeLength (ptlen s.srcLen.toNat s.firstByte) (hdroff s.firstByte),
    rfl, ?_, ?_, ?_, s.completeLength_sameButLengths _ _⟩⟩
  · rw [s.completeLength_resultOff_toNat _ (hdroff_range _), s.hdroff_firstByte]
  · rw [s.completeLength_resultLen_toNat, ptlen, s.hdroff_firstByte]
    omega
  · have hbound : 7 + hdroff s.firstByte = 10 + s.arg.toNat % 8 := by rw [s.hdroff_firstByte]; omega
    rw [← hbound, ← lengthOutOfRange_ptlen s.srcLen.isLt]
    exact s.completeLength_completedWith _ _

/-- Settles O30: the image begins with the header byte of the offset, and its offset determines the length. -/
theorem headerByteGivesOffsetAndLengthBack : Obligations.HeaderByteGivesOffsetAndLengthBack := by
  rintro n src f rfl
  have hoff : hdroff ((pad src f).headD 0) = fillOf src.length := by
    rw [pad_headD, hdroff_headerByte (fillOf_range _)]
  exact ⟨pad_headD src f, hoff, ptlen_ctlen hoff⟩

/-- Settles O27: the length is the identity of R137, and nonnegative, so it is out of range exactly when it is large. -/
theorem ctlenCompletes : Obligations.CtlenCompletes := by
  refine ⟨fun _ => decode_eq_ok, fun _ => exists_decode_eq_error_of_ctlen_op, fun s =>
    ⟨s.completeLength (ctlen s.srcLen.toNat) (fillOf s.srcLen.toNat), rfl, ?_,
      s.completeLength_resultOff_toNat _ (fillOf_range _), ?_, s.completeLength_sameButLengths _ _⟩⟩
  · rw [← ctlen_eq_cipherLength]
    exact_mod_cast s.completeLength_resultLen_toNat (ctlen s.srcLen.toNat) _
  · rw [← lengthOutOfRange_ctlen]
    exact s.completeLength_completedWith _ _

/-- Settles O29: the expansion is `fillOf n + 7`, and every bound of the length is one of the identity. -/
theorem ciphertextLengthIdentity : Obligations.CiphertextLengthIdentity := by
  refine ⟨fun n => ?_, fun n _ => ?_, rfl, fun n hlow hhigh => ?_⟩
  · have hid : ctlen n = 8 * ((n + 1) / 8) + 16 := ctlen_eq_cipherLength n
    have hexp : ctlen n - n = fillOf n + 7 := by rw [ctlen]; omega
    have hfill := fillOf_range n
    exact ⟨hid, ctlen_dvd n, by omega, by omega, by omega⟩
  · have hlarge := two_pow_32_le_ctlen (n := n)
    omega
  · rw [ctlen_eq_cipherLength, cipherLength]
    omega

end Sys2Proof.Machine

/-! PROOFS. The rounds and the block transforms, and the table a cipher command selects (spec 42_cipher_core.md R153 to
R159). -/

namespace Sys2Proof.Machine

/-! ### The halves of a block (R154) -/

@[simp] theorem joinHalves_splitHalves (x : DWord) : joinHalves (splitHalves x) = x :=
  BitVec.extractLsb'_append_extractLsb'

@[simp] theorem splitHalves_joinHalves (h : Halves) : splitHalves (joinHalves h) = h :=
  Prod.ext BitVec.extractLsb'_append_eq_left BitVec.extractLsb'_append_eq_right

theorem joinHalves_toNat (h : Halves) : (joinHalves h).toNat = h.1.toNat * 4294967296 + h.2.toNat :=
  toNat_append_eq_add h.1 h.2

theorem splitHalves_fst_toNat (x : DWord) : (splitHalves x).1.toNat = x.toNat / 4294967296 := by
  have hjoin := joinHalves_toNat (splitHalves x)
  rw [joinHalves_splitHalves] at hjoin
  omega

theorem splitHalves_snd_toNat (x : DWord) : (splitHalves x).2.toNat = x.toNat % 4294967296 := by
  have hjoin := joinHalves_toNat (splitHalves x)
  rw [joinHalves_splitHalves] at hjoin
  omega

/-! ### One round after the other (R157, R158) -/

/-- The halves after the forward rounds of the constants before `r`. -/
def forwardRoundsTo (t : Vector Word 16) (k : Vector Word 4) (h : Halves) (r : Nat) : Halves :=
  (t.toList.take r).foldl (fun h c => forwardRound k c h) h

/-- The halves after the reverse rounds of the constants from the last down to number `r`. -/
def reverseRoundsFrom (t : Vector Word 16) (k : Vector Word 4) (h : Halves) (r : Nat) : Halves :=
  (t.toList.drop r).reverse.foldl (fun h c => reverseRound k c h) h

section
variable (t : Vector Word 16) (k : Vector Word 4) (h : Halves)

theorem forwardRoundsTo_zero : forwardRoundsTo t k h 0 = h := rfl

theorem forwardRoundsTo_succ {r : Nat} (hr : r < 16) :
    forwardRoundsTo t k h (r + 1) = forwardRound k t[r] (forwardRoundsTo t k h r) := by
  rw [forwardRoundsTo, ← List.take_concat_get' _ _ (by simpa), List.foldl_concat, Vector.getElem_toList]
  rfl

theorem forwardRoundsTo_sixteen : forwardRoundsTo t k h 16 = forwardRounds t k h := by
  rw [forwardRoundsTo, List.take_of_length_le (by simp), forwardRounds]

theorem reverseRoundsFrom_sixteen : reverseRoundsFrom t k h 16 = h := by
  rw [reverseRoundsFrom, List.drop_of_length_le (by simp), List.reverse_nil, List.foldl_nil]

theorem reverseRoundsFrom_eq_succ {r : Nat} (hr : r < 16) :
    reverseRoundsFrom t k h r = reverseRound k t[r] (reverseRoundsFrom t k h (r + 1)) := by
  rw [reverseRoundsFrom, List.drop_eq_getElem_cons (by simpa), List.reverse_cons, List.foldl_concat,
    Vector.getElem_toList]
  rfl

theorem reverseRoundsFrom_zero : reverseRoundsFrom t k h 0 = reverseRounds t k h := rfl
end

/-! ### A reverse round undoes its forward round (R155, R156, R159) -/

/-- Each half-update is undone with the other half it was made with. -/
theorem reverseRound_forwardRound (k : Vector Word 4) (c : Word) (h : Halves) :
    reverseRound k c (forwardRound k c h) = h := by
  simp only [forwardRound, reverseRound, BitVec.add_sub_cancel]

theorem forwardRound_reverseRound (k : Vector Word 4) (c : Word) (h : Halves) :
    forwardRound k c (reverseRound k c h) = h := by
  simp only [forwardRound, reverseRound, BitVec.sub_add_cancel]

/-- What is undone step by step in the reverse order is undone. -/
theorem foldl_reverse_foldl {α β : Type} {f g : β → α → β} (hundo : ∀ b a, g (f b a) a = b) (l : List α)
    (b : β) : l.reverse.foldl g (l.foldl f b) = b := by
  induction l generalizing b with
  | nil => rfl
  | cons a l ih => rw [List.reverse_cons, List.foldl_concat, List.foldl_cons, ih, hundo]

theorem reverseRounds_forwardRounds (t : Vector Word 16) (k : Vector Word 4) (h : Halves) :
    reverseRounds t k (forwardRounds t k h) = h :=
  foldl_reverse_foldl (fun h c => reverseRound_forwardRound k c h) t.toList h

theorem forwardRounds_reverseRounds (t : Vector Word 16) (k : Vector Word 4) (h : Halves) :
    forwardRounds t k (reverseRounds t k h) = h := by
  have hundo := foldl_reverse_foldl (g := fun h c => forwardRound k c h)
    (fun h c => forwardRound_reverseRound k c h) t.toList.reverse h
  rwa [List.reverse_reverse] at hundo

theorem decBlock_encBlock (t : Vector Word 16) (k : Vector Word 4) (x : DWord) :
    decBlock t k (encBlock t k x) = x := by
  rw [decBlock, encBlock, splitHalves_joinHalves, reverseRounds_forwardRounds, joinHalves_splitHalves]

theorem encBlock_decBlock (t : Vector Word 16) (k : Vector Word 4) (x : DWord) :
    encBlock t k (decBlock t k x) = x := by
  rw [encBlock, decBlock, splitHalves_joinHalves, forwardRounds_reverseRounds, joinHalves_splitHalves]

/-! ### The selected table (R153) -/

/-- An encryption depends on the selection through the table alone. -/
theorem State.encrypt_congr_table {s : State} {x y : TableSelect} (o : ByteOrder) (h : s.table x = s.table y) :
    s.encrypt x o = s.encrypt y o := by
  simp only [encrypt, startCipher_table, h]

/-- So does a decryption. -/
theorem State.decrypt_congr_table {s : State} {x y : TableSelect} (o : ByteOrder) (h : s.table x = s.table y) :
    s.decrypt x o = s.decrypt y o := by
  simp only [decrypt, startCipher_table, h]

/-! ### The statements -/

/-- Settles O31: the halves round by round are those of `forwardRoundsTo`. -/
theorem encBlockRunsSixteenForwardRounds : Obligations.EncBlockRunsSixteenForwardRounds := by
  intro t k x
  refine ⟨fun r => (forwardRoundsTo t k (splitHalves x) r).1, fun r => (forwardRoundsTo t k (splitHalves x) r).2,
    ?_, ?_, fun r hr => ?_, ?_⟩
  · simp only [forwardRoundsTo_zero, splitHalves_fst_toNat]
  · simp only [forwardRoundsTo_zero, splitHalves_snd_toNat]
  · simp only [forwardRoundsTo_succ t k _ hr]
    exact ⟨rfl, rfl⟩
  · simp only [forwardRoundsTo_sixteen, encBlock, joinHalves_toNat]

/-- Settles O32: the halves round by round, downwards, are those of `reverseRoundsFrom`. -/
theorem decBlockRunsSixteenReverseRounds : Obligations.DecBlockRunsSixteenReverseRounds := by
  intro t k x
  refine ⟨fun r => (reverseRoundsFrom t k (splitHalves x) r).1, fun r => (reverseRoundsFrom t k (splitHalves x) r).2,
    ?_, ?_, fun r hr => ?_, ?_⟩
  · simp only [reverseRoundsFrom_sixteen, splitHalves_fst_toNat]
  · simp only [reverseRoundsFrom_sixteen, splitHalves_snd_toNat]
  · simp only [reverseRoundsFrom_eq_succ t k _ hr]
    exact ⟨rfl, rfl⟩
  · simp only [reverseRoundsFrom_zero, decBlock, joinHalves_toNat]

/-- Settles O33: the two transforms undo each other, so EncBlock has a two-sided inverse. -/
theorem blockTransformIsABijection : Obligations.BlockTransformIsABijection := fun t k =>
  ⟨decBlock_encBlock t k, encBlock_decBlock t k,
    Function.bijective_iff_has_inverse.mpr ⟨decBlock t k, decBlock_encBlock t k, encBlock_decBlock t k⟩⟩

/-- Settles O47: the commands of a pair differ in the selected table alone. -/
theorem equalTablesGiveEqualCommands : Obligations.EqualTablesGiveEqualCommands := fun s o heq =>
  have htable : s.table .custom = s.table .builtin := heq
  ⟨congrArg Host.Outcome.next (State.encrypt_congr_table o htable),
    congrArg Host.Outcome.next (State.decrypt_congr_table o htable)⟩

end Sys2Proof.Machine

/-! PROOFS. Padding, chaining, and the encryption and decryption commands (spec 43_encrypt_decrypt.md R170 to R185). -/

namespace Sys2Proof.Machine

/-! ### Filler bytes (R170) -/

/-- Filler byte `j` is byte `j mod 4` of its word, the least significant first. -/
theorem fillerByte_toNat (f : Vector Word 3) {j : Nat} (hj : j < 12) :
    (fillerByte f j).toNat = (f[j / 4]'(by omega)).toNat / 256 ^ (j % 4) % 256 := by
  rw [fillerByte, List.getD_eq_getElem _ _ (by simp; omega), Vector.getElem_toList, BitVec.extractLsb'_toNat,
    Nat.shiftRight_eq_div_pow, Nat.pow_mul]

/-! ### The padded image, part by part (R171) -/

section
variable (src : List Byte) (f : Vector Word 3)

theorem padByte_zero : padByte src f 0 = 0xF8 ||| BitVec.ofNat 8 (fillOf src.length - 3) := rfl

theorem padByte_filler {j : Nat} (hpos : 0 < j) (hfill : j < fillOf src.length) :
    padByte src f j = fillerByte f j := by
  simp [padByte, hpos.ne', hfill]

theorem padByte_payload {j : Nat} (hj : j < src.length) : padByte src f (fillOf src.length + j) = src.getD j 0 := by
  have hfill := fillOf_range src.length
  simp only [padByte]
  rw [if_neg (by omega), if_neg (by omega), if_pos (by omega), Nat.add_sub_cancel_left]

theorem padByte_of_ge {j : Nat} (hj : fillOf src.length + src.length ≤ j) : padByte src f j = 0 := by
  have hfill := fillOf_range src.length
  simp only [padByte]
  rw [if_neg (by omega), if_neg (by omega), if_neg (by omega)]

/-- Only the bytes between the header and the payload depend on the filler words (R184). -/
theorem padByte_congr_fill (g : Vector Word 3) {j : Nat} (hj : j = 0 ∨ fillOf src.length ≤ j) :
    padByte src f j = padByte src g j := by
  rcases hj with rfl | hj
  · rfl
  · simp only [padByte, if_neg hj.not_gt]

/-- The image reads as `padByte` at every index: past its end both are 0. -/
theorem pad_getD (j : Nat) : (pad src f).getD j 0 = padByte src f j := by
  by_cases hj : j < ctlen src.length
  · simp [pad, List.getD_eq_getElem?_getD, hj]
  · rw [List.getD_eq_default _ _ (by simpa using hj), padByte_of_ge]
    rw [ctlen] at hj
    omega

theorem map_padByte_header : (List.range (fillOf src.length)).map (padByte src f) =
    (0xF8 ||| BitVec.ofNat 8 (fillOf src.length - 3)) ::
      (List.range (fillOf src.length - 1)).map fun j => fillerByte f (j + 1) := by
  obtain ⟨hlow, -⟩ := fillOf_range src.length
  have hsucc : fillOf src.length = (fillOf src.length - 1) + 1 := by omega
  rw [hsucc, List.range_succ_eq_map, ← hsucc, List.map_cons, padByte_zero, List.map_map]
  refine congrArg _ (List.map_congr_left fun j hj => ?_)
  rw [List.mem_range] at hj
  exact padByte_filler src f j.succ_pos (by omega)

theorem map_padByte_payload : (List.range src.length).map (fun j => padByte src f (fillOf src.length + j)) = src := by
  refine List.ext_getElem (by simp) fun j _ hj => ?_
  rw [List.getElem_map, List.getElem_range, padByte_payload src f hj, List.getD_eq_getElem _ _ hj]

theorem map_padByte_tail :
    (List.range 7).map (fun j => padByte src f (fillOf src.length + src.length + j)) = List.replicate 7 0 := by
  refine List.eq_replicate_iff.mpr ⟨by simp, fun b hb => ?_⟩
  obtain ⟨j, -, rfl⟩ := List.mem_map.mp hb
  exact padByte_of_ge src f (Nat.le_add_right _ j)

end

/-- Settles O34: the range of the image's indices is cut where the parts begin. -/
theorem padLaysOutTheImage : Obligations.PadLaysOutTheImage := by
  refine ⟨fun src f => ?_, fun f j => fillerByte_toNat f⟩
  simp only [pad, ctlen, List.range_add, List.map_append, List.map_map, Function.comp_def, map_padByte_header,
    map_padByte_payload, map_padByte_tail]

/-- Settles O35: byte by byte, from `padByte_congr_fill`. -/
theorem fillerWordsReachFillerBytesAlone : Obligations.FillerWordsReachFillerBytesAlone := by
  intro src f g j hj
  rw [pad_getD, pad_getD, padByte_congr_fill src f g hj]

/-! ### One block of a chain (R173, R174) -/

section
variable (t : Vector Word 16) (k : Vector Word 4) (o : ByteOrder) (i : Nat) (q : Sequencer) (b : List Byte)

theorem encStep_chA : (encStep t k o i q b).1.chA = encBlock t k (encStep t k o i q b).1.chB ^^^ q.chB := rfl
theorem encStep_chB : (encStep t k o i q b).1.chB = loadBlock o b ^^^ q.chA := rfl
theorem encStep_snd : (encStep t k o i q b).2 = storeBlock o (encStep t k o i q b).1.chA := rfl

theorem decStep_chA : (decStep t k o i q b).1.chA = decBlock t k (q.chA ^^^ loadBlock o b) := rfl
theorem decStep_chB : (decStep t k o i q b).1.chB = loadBlock o b := rfl
theorem decStep_snd : (decStep t k o i q b).2 = storeBlock o ((decStep t k o i q b).1.chA ^^^ q.chB) := rfl
end

/-! ### Chaining, block by block (R173, R174) -/

section
variable {f : Nat → Sequencer → List Byte → Sequencer × List Byte}

/-- A chain of `m + n` blocks is a chain of `m`, and one of `n` from the hidden registers it leaves. -/
theorem chainBlocks_add (m n i : Nat) (q : Sequencer) (bs : List Byte) :
    chainBlocks f (m + n) i q bs =
      ((chainBlocks f n (i + m) (chainBlocks f m i q bs).1 (bs.drop (8 * m))).1,
        (chainBlocks f m i q bs).2 ++ (chainBlocks f n (i + m) (chainBlocks f m i q bs).1 (bs.drop (8 * m))).2) := by
  induction m generalizing i q bs with
  | zero => simp [chainBlocks]
  | succ m ih =>
    rw [Nat.succ_add]
    simp only [chainBlocks, ih, List.drop_drop, List.append_assoc, Nat.add_assoc, Nat.add_comm 1 m, Nat.mul_succ,
      Nat.add_comm 8]

/-- The hidden registers after one block more. -/
theorem chainBlocks_succ_fst (n : Nat) (q : Sequencer) (bs : List Byte) :
    (chainBlocks f (n + 1) 0 q bs).1 = (f n (chainBlocks f n 0 q bs).1 ((bs.drop (8 * n)).take 8)).1 := by
  rw [chainBlocks_add, Nat.zero_add]
  rfl

/-- Block `i` of the bytes a chain writes is what `f` writes for block `i`. -/
theorem chainBlocks_block (hf : ∀ i q b, (f i q b).2.length = 8) {count i : Nat} (hi : i < count) (q : Sequencer)
    (bs : List Byte) :
    ((chainBlocks f count 0 q bs).2.drop (8 * i)).take 8 =
      (f i (chainBlocks f i 0 q bs).1 ((bs.drop (8 * i)).take 8)).2 := by
  obtain ⟨rest, rfl⟩ : ∃ rest, count = i + (rest + 1) := ⟨count - (i + 1), by omega⟩
  rw [chainBlocks_add, List.drop_left' (chainBlocks_length hf i 0 q bs), Nat.zero_add]
  exact List.take_left' (hf _ _ _)
end

/-- Settles O36: the holder and the output of a block are the accumulators after it. -/
theorem encryptionChainRecurrence : Obligations.EncryptionChainRecurrence := by
  intro t k o p hblocks
  refine ⟨encChain_length t k p o hblocks, fun i => (encChainFrom t k o i Sequencer.zero p).1.chB,
    fun i => (encChainFrom t k o i Sequencer.zero p).1.chA, rfl, rfl, fun i hi => ?_⟩
  simp only [encChain, encChainFrom, chainBlocks_succ_fst, chainBlocks_block (encStep_length t k o) hi]
  exact ⟨encStep_chB .., encStep_chA .., encStep_snd ..⟩

/-- Settles O37: the accumulator and the raw block are the accumulators after the block. -/
theorem decryptionChainRecurrence : Obligations.DecryptionChainRecurrence := by
  intro t k o c hblocks
  refine ⟨decChain_length t k c o hblocks, fun i => (decChainFrom t k o i Sequencer.zero c).1.chA,
    fun i => (decChainFrom t k o i Sequencer.zero c).1.chB, rfl, rfl, fun i hi => ?_⟩
  simp only [decChain, decChainFrom, chainBlocks_succ_fst, chainBlocks_block (decStep_length t k o) hi]
  exact ⟨decStep_chB .., decStep_chA .., decStep_snd ..⟩

/-! ### Decryption chaining undoes encryption chaining (R175) -/

/-- The accumulators `q'` of a decryption beside those `q` of the encryption it undoes: they have changed places. -/
def Mirrored (q q' : Sequencer) : Prop := q'.chA = q.chB ∧ q'.chB = q.chA

/-- A decrypted block is the block that was encrypted, and the accumulators stay mirrored. -/
theorem decStep_encStep (t : Vector Word 16) (k : Vector Word 4) (o : ByteOrder) (i : Nat) {q q' : Sequencer}
    (h : Mirrored q q') {b : List Byte} (hb : b.length = 8) :
    (decStep t k o i q' (encStep t k o i q b).2).2 = b ∧
      Mirrored (encStep t k o i q b).1 (decStep t k o i q' (encStep t k o i q b).2).1 := by
  obtain ⟨hA, hB⟩ := h
  have hacc : (decStep t k o i q' (encStep t k o i q b).2).1.chA = (encStep t k o i q b).1.chB := by
    rw [decStep_chA, encStep_snd, loadBlock_storeBlock, encStep_chA, hA, BitVec.xor_comm, BitVec.xor_assoc,
      BitVec.xor_self, BitVec.xor_zero, decBlock_encBlock]
  refine ⟨?_, hacc, ?_⟩
  · rw [decStep_snd, hacc, encStep_chB, hB, BitVec.xor_assoc, BitVec.xor_self, BitVec.xor_zero,
      storeBlock_loadBlock o hb]
  · rw [decStep_chB, encStep_snd, loadBlock_storeBlock]

/-- Decrypting a chain of whole blocks from mirrored accumulators gives the blocks back. -/
theorem decBlocks_encBlocks (t : Vector Word 16) (k : Vector Word 4) (o : ByteOrder) {count : Nat} (i : Nat)
    {q q' : Sequencer} (h : Mirrored q q') {p : List Byte} (hp : p.length = 8 * count) :
    (chainBlocks (decStep t k o) count i q' (chainBlocks (encStep t k o) count i q p).2).2 = p := by
  induction count generalizing i q q' p with
  | zero => exact (List.eq_nil_of_length_eq_zero hp).symm
  | succ n ih =>
    obtain ⟨hblock, hnext⟩ := decStep_encStep t k o i h (b := p.take 8) (by rw [List.length_take]; omega)
    simp only [chainBlocks, List.take_left' (encStep_length t k o i q _),
      List.drop_left' (encStep_length t k o i q _), hblock]
    rw [ih (i + 1) hnext (by rw [List.length_drop]; omega), List.take_append_drop]

/-- Settles O38: both chains start with all accumulators 0, which are mirrored. -/
theorem decryptionChainInvertsEncryptionChain : Obligations.DecryptionChainInvertsEncryptionChain := by
  intro t k o p hblocks
  rw [decChain, encChain_length t k p o hblocks]
  exact decBlocks_encBlocks t k o 0 ⟨rfl, rfl⟩ (by omega)

/-! ### Commands that write their image (R84, R97) -/

/-- A cipher command whose buffers the platform admits has no refused access. -/
theorem BusAdmits.firstRefused {s : State} {f wlen : Nat} (h : BusAdmits s wlen) (hblocks : wlen % 8 = 0)
    (hfit : f + s.srcLen.toNat ≤ wlen) :
    s.plat.firstRefused (cipherAccesses f s.srcAddr.toNat s.srcLen.toNat s.dstAddr.toNat (wlen / 8)) = none := by
  obtain ⟨hreads, hwrites⟩ := h
  refine Platform.firstRefused_none.mpr fun x hx => ?_
  obtain ⟨k, hk, rfl⟩ | ⟨m, hm, rfl⟩ := (mem_cipherAccesses (by omega)).mp hx
  · exact hreads k hk
  · exact hwrites m (by omega)

/-- The state with `image` written at DST_ADDR, and new hidden registers and coherence log. -/
def State.withImage (s : State) (image : List Byte) (q : Sequencer) (c : List CoherenceEvent) : State :=
  { s with mem := s.mem.writeBytes s.dstAddr.toNat image, seq := q, coherence := c }

/-- What a command that wrote `image` leaves: the image in its destination, and memory elsewhere, every operand and
every other result as before (R52, R54). -/
theorem withImage_outcome (s : State) {image : List Byte} (q : Sequencer) (c : List CoherenceEvent) (v : Int)
    (off : Nat) (hm : s.mem.wf = true) (hexists : s.dstAddr.toNat + image.length ≤ addressSpace) {t : State}
    (ht : t = (s.withImage image q c).completeLength v off) :
    (∀ x, t.mem.readByte x =
      if s.dstAddr.toNat ≤ x ∧ x < s.dstAddr.toNat + image.length then image.getD (x - s.dstAddr.toNat) 0
      else s.mem.readByte x) ∧
    CompletedWith s t 0 (lengthOutOfRange v) ∧ SameOperands s t ∧ SameDout s t ∧ SameOutside s t ∧
      t.errAddr = s.errAddr ∧ t.draws = s.draws := by
  subst ht
  exact ⟨fun x => Memory.readByte_writeBytes _ _ _ hm hexists, ⟨rfl, rfl, rfl, rfl, rfl⟩,
    ⟨rfl, rfl, rfl, rfl, rfl, rfl, rfl, rfl, rfl, rfl⟩, ⟨rfl, rfl⟩, ⟨rfl, rfl, rfl, rfl, rfl⟩, rfl, rfl⟩

/-! ### Encryptions (R176) -/

/-- A passed encryption check bounds the written length by DST_CAP, so it fits 32 bits (R203). -/
theorem State.ctlen_lt_of_encCheck {s : State} (h : s.encCheck = none) : ctlen s.srcLen.toNat < 4294967296 := by
  obtain ⟨hcap, -⟩ := bufferCheck_eq_none.mp h
  exact hcap.trans_lt s.dstCap.isLt

theorem lengthOutOfRange_of_lt {n : Nat} (h : n < 4294967296) : lengthOutOfRange n = false :=
  decide_eq_false (by rw [addressSpace]; omega)

theorem State.encrypt_lrange (s : State) (x : TableSelect) (o : ByteOrder) :
    (s.encrypt x o).status.lrange = false := by
  rcases s.encrypt_cases x o with ⟨e, -, heq⟩ | ⟨-, y, q, -, heq⟩ | ⟨hcheck, -, q, heq⟩ <;> rw [heq]
  · rfl
  · rfl
  · exact lengthOutOfRange_of_lt (ctlen_lt_of_encCheck hcheck)

/-- Settles O50: a length out of range fails the capacity check. -/
theorem encryptionNeverSetsLrange : Obligations.EncryptionNeverSetsLrange := by
  rintro s t o i (rfl | rfl) h
  · exact Host.Outcome.next.inj h ▸ s.encrypt_lrange .builtin o
  · exact Host.Outcome.next.inj h ▸ s.encrypt_lrange .custom o

/-- `t` is the state after an encryption of `s` that passed its checks and wrote the chained image. -/
def State.EncryptsTo (s : State) (x : TableSelect) (o : ByteOrder) (t : State) : Prop :=
  s.encCheck = none ∧ ∃ q c, t = (s.withImage (encChain (s.table x) s.key s.encImage o) q c).completeLength
    (ctlen s.srcLen.toNat) (fillOf s.srcLen.toNat)

/-- An encryption whose buffers fit and whose accesses are admitted writes the chained image. -/
theorem State.encrypt_of_admitted {s : State} (hfit : BuffersFit s (ctlen s.srcLen.toNat))
    (hbus : BusAdmits s (ctlen s.srcLen.toNat)) (x : TableSelect) (o : ByteOrder) :
    s.EncryptsTo x o (s.encrypt x o) := by
  have hcheck : s.encCheck = none := hfit.bufferCheck
  have hnone := hbus.firstRefused (f := fillOf s.srcLen.toNat) (ctlen_dvd _) (by rw [ctlen]; omega)
  rw [← encAccesses_eq] at hnone
  rcases s.encrypt_cases x o with ⟨e, he, -⟩ | ⟨-, y, q, hy, -⟩ | ⟨-, -, q, heq⟩
  · simp [hcheck] at he
  · simp [hnone] at hy
  · exact ⟨hcheck, q, _, heq⟩

/-- Every failure has an error code (R207). -/
theorem State.raiseError_errCode_ne_zero (s : State) (e : CommandError) : (s.raiseError e).status.errCode ≠ 0 := by
  cases e <;> simp [CommandError.code]

/-- An encryption without an error has passed its checks and written the chained image. -/
theorem State.encrypt_of_noError {s : State} {x : TableSelect} {o : ByteOrder}
    (h : (s.encrypt x o).status.errCode = 0) : s.EncryptsTo x o (s.encrypt x o) := by
  rcases s.encrypt_cases x o with ⟨e, -, heq⟩ | ⟨-, y, q, -, heq⟩ | ⟨hcheck, -, q, heq⟩
  · exact absurd (heq ▸ h) (raiseError_errCode_ne_zero _ _)
  · exact absurd (heq ▸ h) (raiseError_errCode_ne_zero _ _)
  · exact ⟨hcheck, q, _, heq⟩

theorem State.encChain_encImage_length (s : State) (t : Vector Word 16) (o : ByteOrder) :
    (encChain t s.key s.encImage o).length = ctlen s.srcLen.toNat := by
  rw [encChain_length _ _ _ _ (by simp [ctlen_dvd]), encImage_length]

namespace State.EncryptsTo
variable {s t : State} {x : TableSelect} {o : ByteOrder} (h : s.EncryptsTo x o t)
include h

theorem resultLen : t.resultLen.toNat = ctlen s.srcLen.toNat := by
  obtain ⟨hcheck, q, c, rfl⟩ := h
  have hlt := ctlen_lt_of_encCheck hcheck
  have hres := completeLength_resultLen_toNat (s.withImage (encChain (s.table x) s.key s.encImage o) q c)
    (ctlen s.srcLen.toNat) (fillOf s.srcLen.toNat)
  omega

theorem resultOff : t.resultOff.toNat = fillOf s.srcLen.toNat := by
  obtain ⟨-, q, c, rfl⟩ := h
  exact completeLength_resultOff_toNat _ _ (fillOf_range _)

/-- The destination holds the chained image, and everything but the length results is as before. -/
theorem outcome (hm : s.mem.wf = true) :
    (∀ y, t.mem.readByte y =
      if s.dstAddr.toNat ≤ y ∧ y < s.dstAddr.toNat + ctlen s.srcLen.toNat then
        (encChain (s.table x) s.key s.encImage o).getD (y - s.dstAddr.toNat) 0
      else s.mem.readByte y) ∧
    CompletedWith s t 0 false ∧ SameOperands s t ∧ SameDout s t ∧ SameOutside s t ∧
      t.errAddr = s.errAddr ∧ t.draws = s.draws := by
  obtain ⟨hcheck, q, c, heq⟩ := h
  obtain ⟨-, -, hexists, -⟩ := bufferCheck_eq_none.mp hcheck
  rw [← s.encChain_encImage_length (s.table x) o] at hexists ⊢
  have hout := withImage_outcome s q c _ _ hm hexists heq
  rwa [lengthOutOfRange_of_lt (ctlen_lt_of_encCheck hcheck)] at hout

/-- A memory that holds the written bytes from `a` on reads there as the chained image. -/
theorem readBytes_copy (hm : s.mem.wf = true) {m : Memory} {a : Nat}
    (hcopy : ∀ i < ctlen s.srcLen.toNat, m.readByte (a + i) = t.mem.readByte (s.dstAddr.toNat + i)) :
    m.readBytes a (ctlen s.srcLen.toNat) = encChain (s.table x) s.key s.encImage o := by
  obtain ⟨hmem, -⟩ := h.outcome hm
  refine List.ext_getElem (by simp [encChain_encImage_length]) fun i hi hi' => ?_
  rw [Memory.readBytes_length] at hi
  rw [← List.getD_eq_getElem _ 0, ← List.getD_eq_getElem _ 0 hi', Memory.readBytes_getD _ _ _ _ _ hi, hcopy i hi,
    hmem, if_pos (by omega), Nat.add_sub_cancel_left]

end State.EncryptsTo

/-- An encryption command encrypts with the table it selects (R153, R177, R178). -/
theorem exec_eq_encrypt {s : State} {o : ByteOrder} {i : Instr} {tb : Vector Word 16}
    (h : (i = .encb o ∧ tb = s.plat.builtin) ∨ (i = .encc o ∧ tb = s.tbl)) :
    ∃ x, exec i s = .next (s.encrypt x o) ∧ s.table x = tb := by
  obtain ⟨rfl, rfl⟩ | ⟨rfl, rfl⟩ := h
  · exact ⟨.builtin, rfl, rfl⟩
  · exact ⟨.custom, rfl, rfl⟩

/-- Settles O42: no access is refused, so the outcome is that of a written image. -/
theorem encryptionWritesTheChainedImage : Obligations.EncryptionWritesTheChainedImage := by
  refine ⟨rfl, rfl, rfl, rfl, fun s o i tb hi hm hfit hbus => ?_⟩
  obtain ⟨x, hexec, rfl⟩ := exec_eq_encrypt hi
  rw [← ctlen_eq_cipherLength] at hfit hbus ⊢
  have henc := State.encrypt_of_admitted hfit hbus x o
  obtain ⟨hmem, hrest⟩ := henc.outcome hm
  exact ⟨_, hexec, hmem, henc.resultLen, henc.resultOff, hrest⟩

/-! ### Decryptions (R179) -/

/-- A decryption of a legal length whose buffers fit and whose accesses are admitted writes the unchained image. -/
theorem State.decrypt_of_admitted {s : State} (hlegal : CipherLengthLegal s.srcLen.toNat)
    (hfit : BuffersFit s s.srcLen.toNat) (hbus : BusAdmits s s.srcLen.toNat) (x : TableSelect) (o : ByteOrder)
    {image : List Byte}
    (himage : image = decChain (s.table x) s.key (s.mem.readBytes s.srcAddr.toNat s.srcLen.toNat) o) :
    ∃ q c, s.decrypt x o = (s.withImage image q c).completeLength
      (ptlen s.srcLen.toNat (image.headD 0)) (hdroff (image.headD 0)) := by
  have hcheck : s.decCheck = none := hlegal.decCheck.trans hfit.bufferCheck
  have hnone := hbus.firstRefused (f := 0) hlegal.2 (by omega)
  rw [← decAccesses_eq] at hnone
  rcases s.decrypt_cases x o with ⟨e, he, -⟩ | ⟨-, y, q, hy, -⟩ | ⟨-, -, q, _, rfl, heq⟩
  · simp [hcheck] at he
  · simp [hnone] at hy
  · exact ⟨q, _, himage ▸ heq⟩

/-- A decryption command decrypts with the table it selects (R153, R180, R181). -/
theorem exec_eq_decrypt {s : State} {o : ByteOrder} {i : Instr} {tb : Vector Word 16}
    (h : (i = .decb o ∧ tb = s.plat.builtin) ∨ (i = .decc o ∧ tb = s.tbl)) :
    ∃ x, exec i s = .next (s.decrypt x o) ∧ s.table x = tb := by
  obtain ⟨rfl, rfl⟩ | ⟨rfl, rfl⟩ := h
  · exact ⟨.builtin, rfl, rfl⟩
  · exact ⟨.custom, rfl, rfl⟩

/-- Settles O43: no access is refused, and the results are PTLEN's of the first byte. -/
theorem decryptionWritesTheUnchainedImage : Obligations.DecryptionWritesTheUnchainedImage := by
  refine ⟨rfl, rfl, rfl, rfl, fun s o i tb image first hi hm hlegal hfit hbus himage hfirst => ?_⟩
  obtain ⟨x, hexec, rfl⟩ := exec_eq_decrypt hi
  have hoff : hdroff (image.headD 0) = first + 3 := by rw [hdroff_eq, List.headD_eq_getD, hfirst]
  have hbound : 7 + hdroff (image.headD 0) = 10 + first := by omega
  have hlen : image.length = s.srcLen.toNat := by
    rw [himage, decChain_length _ _ _ _ (by simpa using hlegal.2), Memory.readBytes_length]
  obtain ⟨q, c, heq⟩ := State.decrypt_of_admitted hlegal hfit hbus x o himage
  obtain ⟨-, -, hexists, -⟩ := hfit
  rw [← hlen] at hexists
  obtain ⟨hmem, hdone, hrest⟩ := withImage_outcome s q c _ _ hm hexists heq
  rw [hlen] at hmem
  rw [lengthOutOfRange_ptlen s.srcLen.isLt, hbound] at hdone
  refine ⟨_, hexec, hmem, ?_, ?_, hdone, hrest⟩
  · rw [heq, State.completeLength_resultOff_toNat _ _ (hdroff_range _), hoff]
  · rw [heq, State.completeLength_resultLen_toNat, ptlen, hoff]
    omega

/-! ### Decrypting what an encryption wrote (R183, R185) -/

/-- The first byte of the image names the payload's offset. -/
theorem State.encImage_header (s : State) : (s.encImage.getD 0 0).toNat % 8 + 3 = fillOf s.srcLen.toNat := by
  rw [← hdroff_eq, ← List.headD_eq_getD, encImage, pad_headD, hdroff_headerByte (fillOf_range _),
    Memory.readBytes_length]

/-- From that offset on the image holds the source. -/
theorem State.encImage_payload (s : State) {j : Nat} (hj : j < s.srcLen.toNat) :
    s.encImage.getD (fillOf s.srcLen.toNat + j) 0 = s.mem.readByte (s.srcAddr.toNat + j) := by
  have hpad := padByte_payload (s.mem.readBytes s.srcAddr.toNat s.srcLen.toNat) s.fill (j := j) (by simpa)
  rw [Memory.readBytes_length] at hpad
  rw [encImage, pad_getD, hpad, Memory.readBytes_getD _ _ _ _ _ hj]

/-- Every ciphertext length is legal for a decryption (R137, R202). -/
theorem cipherLengthLegal_ctlen (n : Nat) : CipherLengthLegal (ctlen n) := by
  refine ⟨?_, ctlen_dvd n⟩
  rw [ctlen_eq_cipherLength, cipherLength]
  omega

/-- Of a pair of commands that select equal tables, the decryption uses the table of the encryption. -/
theorem exec_pair {s s' : State} {o : ByteOrder} {enc dec : Instr}
    (h : (enc = .encb o ∧ dec = .decb o ∧ s'.plat.builtin = s.plat.builtin) ∨
      (enc = .encc o ∧ dec = .decc o ∧ s'.tbl = s.tbl)) :
    ∃ x, exec enc s = .next (s.encrypt x o) ∧
      ((dec = .decb o ∧ s.table x = s'.plat.builtin) ∨ (dec = .decc o ∧ s.table x = s'.tbl)) := by
  obtain ⟨rfl, rfl, htable⟩ | ⟨rfl, rfl, htable⟩ := h
  · exact ⟨.builtin, rfl, .inl ⟨rfl, htable.symm⟩⟩
  · exact ⟨.custom, rfl, .inr ⟨rfl, htable.symm⟩⟩

/-- Settles O46: the decryption unchains the chained image (O38), and the image's header and payload give the results
of O43 their values. -/
theorem decryptionRestoresThePlaintext : Obligations.DecryptionRestoresThePlaintext := by
  intro s s' t o enc dec hpair hm hexec hcode hm' hkey hlen hcipher hfit hbus
  obtain ⟨x, henc, hdec⟩ := exec_pair hpair
  obtain rfl : s.encrypt x o = t := Host.Outcome.next.inj (henc.symm.trans hexec)
  have hwritten := State.encrypt_of_noError hcode
  have hn : s'.srcLen.toNat = ctlen s.srcLen.toNat := by rw [hlen, hwritten.resultLen]
  rw [hwritten.resultLen] at hcipher
  rw [← hlen] at hfit hbus
  have himage : decChain (s.table x) s'.key (s'.mem.readBytes s'.srcAddr.toNat s'.srcLen.toNat) o = s.encImage := by
    rw [hn, hwritten.readBytes_copy hm hcipher, hkey,
      decryptionChainInvertsEncryptionChain _ _ _ _ (by simp [ctlen_dvd])]
  obtain ⟨-, -, -, -, decrypts⟩ := decryptionWritesTheUnchainedImage
  obtain ⟨t', hexec', hmem, hoff, hres, ⟨-, -, herr, hrange, -⟩, -⟩ :=
    decrypts s' o dec _ _ _ hdec hm' (hn ▸ cipherLengthLegal_ctlen _) hfit hbus himage.symm rfl
  have hheader := s.encImage_header
  have hctlen : ctlen s.srcLen.toNat = fillOf s.srcLen.toNat + s.srcLen.toNat + 7 := rfl
  rw [hheader] at hoff
  refine ⟨t', hexec', hoff, BitVec.eq_of_toNat_eq ?_, ?_, BitVec.eq_of_toNat_eq herr, fun j hj => ?_⟩
  · omega
  · rw [hrange, decide_eq_false_iff_not]
    omega
  · rw [hmem, if_pos (by omega), hoff, Nat.add_assoc, Nat.add_sub_cancel_left, s.encImage_payload hj]

end Sys2Proof.Machine

/-! PROOFS. The failures of spec 60_exceptions.md: illegal words (R201), the first failing check of a cipher command
(R202 to R205, R208), and what every failure leaves (R209, R211). -/

namespace Sys2Proof.Machine

/-! ### Illegal words (R201) -/

/-- An illegal word completes with ILLEGAL_OP. -/
theorem step_of_illegalWord {s : State} {w : Word} {e : DecodeError} (hrun : s.engine = .run w 0)
    (hw : decode w = .error e) : step s = .next (s.raiseError .illegalOp) := by
  rw [step_of_run_zero hrun, engineTurn, hw]

/-! ### The first failing check of a command (R208) -/

section
variable {s : State} {wlen : Nat}

theorem State.bufferCheck_dstCapacity (hcap : s.dstCap.toNat < wlen) : s.bufferCheck wlen = some .dstCapacity :=
  if_pos hcap

theorem State.bufferCheck_addrRange (hcap : wlen ≤ s.dstCap.toNat)
    (hrange : addressSpace < s.srcAddr.toNat + s.srcLen.toNat ∨ addressSpace < s.dstAddr.toNat + wlen) :
    s.bufferCheck wlen = some .addrRange :=
  (if_neg hcap.not_gt).trans (if_pos hrange)

theorem State.bufferCheck_overlap (hcap : wlen ≤ s.dstCap.toNat)
    (hsrc : s.srcAddr.toNat + s.srcLen.toNat ≤ addressSpace) (hdst : s.dstAddr.toNat + wlen ≤ addressSpace)
    (hoverlap : rangesOverlap s.srcAddr.toNat s.srcLen.toNat s.dstAddr.toNat wlen = true) :
    s.bufferCheck wlen = some .overlap :=
  (if_neg hcap.not_gt).trans ((if_neg (by omega)).trans (if_pos hoverlap))

theorem State.decCheck_badLength (hlen : ¬CipherLengthLegal s.srcLen.toNat) : s.decCheck = some .badLength :=
  if_pos (by rw [CipherLengthLegal] at hlen; omega)

end

theorem rangesOverlap_eq_true {a n d m : Nat} (hn : 0 < n) (hm : 0 < m) (hlow : a < d + m) (hhigh : d < a + n) :
    rangesOverlap a n d m = true := by
  simp [rangesOverlap, *]

/-- The check a command makes before its first access: that of its direction for a cipher command (R176, R179), none
for any other command. -/
def State.cipherCheck (s : State) : Instr → Option CommandError
  | .bswap16 _ | .bswap32 _ | .bswap64 _ => none
  | .ctlen | .ptlen => none
  | .encb _ | .encc _ => s.encCheck
  | .decb _ | .decc _ => s.decCheck

theorem State.encrypt_of_encCheck {s : State} {e : CommandError} (h : s.encCheck = some e) (x : TableSelect)
    (o : ByteOrder) : s.encrypt x o = s.startCipher.raiseError e := by
  simp [State.encrypt, h]

theorem State.decrypt_of_decCheck {s : State} {e : CommandError} (h : s.decCheck = some e) (x : TableSelect)
    (o : ByteOrder) : s.decrypt x o = s.startCipher.raiseError e := by
  simp [State.decrypt, h]

section
variable {i : Instr} {s t : State} {e : CommandError}

/-- A command whose check fails raises the error of the check. -/
theorem exec_of_cipherCheck (h : s.cipherCheck i = some e) : exec i s = .next (s.startCipher.raiseError e) := by
  cases i with
  | encb o | encc o => exact congrArg _ (State.encrypt_of_encCheck h _ o)
  | decb o | decc o => exact congrArg _ (State.decrypt_of_decCheck h _ o)
  | _ => nomatch h

theorem State.cipherCheck_ne_busError (h : s.cipherCheck i = some e) (a : Nat) : e ≠ .busError a := by
  cases i with
  | encb o | encc o => exact State.bufferCheck_ne_busError h a
  | decb o | decc o => exact State.decCheck_ne_busError h a
  | _ => nomatch h

/-- The other way round: a command that fails without BUS_ERROR has failed its check. -/
theorem State.cipherCheck_of_failure (h : exec i s = .next t) (hfail : t.status.errCode ≠ 0)
    (hbus : t.status.errCode ≠ 6) : ∃ e, s.cipherCheck i = some e := by
  cases i with
  | bswap16 o | bswap32 o | bswap64 o => cases h; exact absurd rfl hfail
  | ctlen | ptlen => cases h; exact absurd rfl hfail
  | encb o | encc o =>
    cases h
    rcases s.encrypt_cases _ o with ⟨e, hcheck, -⟩ | ⟨-, y, q, -, heq⟩ | ⟨-, -, q, heq⟩
    · exact ⟨e, hcheck⟩
    · exact absurd (by rw [heq]; rfl) hbus
    · exact absurd (by rw [heq]; rfl) hfail
  | decb o | decc o =>
    cases h
    rcases s.decrypt_cases _ o with ⟨e, hcheck, -⟩ | ⟨-, y, q, -, heq⟩ | ⟨-, -, q, image, -, heq⟩
    · exact ⟨e, hcheck⟩
    · exact absurd (by rw [heq]; rfl) hbus
    · exact absurd (by rw [heq]; rfl) hfail

/-- A failure without BUS_ERROR leaves everything but STATUS, the lifecycle and the hidden registers (R209, R211). -/
theorem raiseError_failedPrecisely (s : State) (q : Sequencer) (he : ∀ a, e ≠ .busError a) :
    FailedPrecisely s ({ s with seq := q }.raiseError e) e.code.toNat :=
  ⟨⟨⟨rfl, rfl, rfl, rfl, rfl⟩, ⟨rfl, rfl, rfl, rfl, rfl, rfl, rfl, rfl, rfl, rfl⟩, ⟨rfl, rfl⟩, ⟨rfl, rfl⟩,
    ⟨rfl, rfl, rfl, rfl, rfl⟩⟩, CommandError.errAddr_eq he _, rfl, rfl, rfl⟩

/-- So a command whose check fails leaves all of that. -/
theorem exec_failedPrecisely (h : s.cipherCheck i = some e) :
    ∃ t, exec i s = .next t ∧ FailedPrecisely s t e.code.toNat :=
  ⟨_, exec_of_cipherCheck h, raiseError_failedPrecisely s _ (State.cipherCheck_ne_busError h)⟩

end

/-! ### What every failure leaves (R209, R211) -/

namespace CommandEffect
variable {s t : State} (h : CommandEffect s t) (hfail : t.status.errCode ≠ 0)
include h hfail

/-- Only a success writes a result register. -/
theorem sameResults : SameLengths s t ∧ SameDout s t := by
  cases h with
  | failed | busError => exact ⟨⟨rfl, rfl⟩, ⟨rfl, rfl⟩⟩
  | swapped | measured | written => exact absurd rfl hfail

theorem lrange_eq_false : t.status.lrange = false :=
  eq_false_of_ne_true fun hrange => hfail (h.lrange_noError hrange)

/-- Of the failures only a BUS_ERROR touches memory. -/
theorem mem_eq (hbus : t.status.errCode ≠ 6) : t.mem = s.mem := by
  cases h with
  | failed => rfl
  | busError => exact absurd rfl hbus
  | swapped | measured | written => exact absurd rfl hfail

end CommandEffect

/-- The state with any other memory and any other bus admission. -/
def State.withBus (s : State) (m : Memory) (b : List BusWindow) : State :=
  { s with mem := m, plat := { s.plat with busRefused := b } }

/-- No check reads memory or asks for admission. -/
theorem State.cipherCheck_withBus (s : State) (m : Memory) (b : List BusWindow) (i : Instr) :
    (s.withBus m b).cipherCheck i = s.cipherCheck i := by
  cases i <;> rfl

section
variable {s t : State} (hfail : t.status.errCode ≠ 0) (hbus : t.status.errCode ≠ 6)
  (m : Memory) (b : List BusWindow)
include hfail hbus

/-- A command that fails without BUS_ERROR fails the same with any other memory and admission: its check fails before
its first access. -/
theorem exec_withBus {i : Instr} (h : exec i s = .next t) : exec i (s.withBus m b) = .next (t.withBus m b) := by
  obtain ⟨e, hcheck⟩ := State.cipherCheck_of_failure h hfail hbus
  obtain rfl := Host.Outcome.next.inj ((exec_of_cipherCheck hcheck).symm.trans h)
  exact exec_of_cipherCheck ((s.cipherCheck_withBus m b i).trans hcheck)

/-- So does the engine's turn: an illegal word makes no access either (R201). -/
theorem engineTurn_withBus {w : Word} (h : engineTurn w s = .next t) :
    engineTurn w (s.withBus m b) = .next (t.withBus m b) := by
  unfold engineTurn at h ⊢
  split at h
  · exact exec_withBus hfail hbus m b h
  · cases h
    rfl

end

/-! ### The statements -/

/-- Settles O39: each clause is a failing buffer check whose predecessors pass. -/
theorem encryptionFailsInPriorityOrder : Obligations.EncryptionFailsInPriorityOrder := by
  intro s o i hi
  have hcheck : s.cipherCheck i = s.bufferCheck (ctlen s.srcLen.toNat) := by rcases hi with rfl | rfl <;> rfl
  rw [← ctlen_eq_cipherLength]
  refine ⟨fun hcap => ?_, fun hcap hrange => ?_, fun hcap hsrc hdst hpos hlow hhigh => ?_⟩
  · exact exec_failedPrecisely (hcheck.trans (State.bufferCheck_dstCapacity hcap))
  · exact exec_failedPrecisely (hcheck.trans (State.bufferCheck_addrRange hcap hrange))
  · have hoverlap := rangesOverlap_eq_true hpos (by rw [ctlen]; omega) hlow hhigh
    exact exec_failedPrecisely (hcheck.trans (State.bufferCheck_overlap hcap hsrc hdst hoverlap))

/-- Settles O40: an illegal length fails first, and a legal one leaves the buffer checks. -/
theorem decryptionFailsInPriorityOrder : Obligations.DecryptionFailsInPriorityOrder := by
  intro s o i hi
  have hdec : s.cipherCheck i = s.decCheck := by rcases hi with rfl | rfl <;> rfl
  refine ⟨fun hlen => ?_, fun hlegal hcap => ?_, fun hlegal hcap hrange => ?_,
    fun hlegal hcap hsrc hdst hlow hhigh => ?_⟩
  · exact exec_failedPrecisely (hdec.trans (State.decCheck_badLength hlen))
  all_goals have hcheck := hdec.trans hlegal.decCheck
  · exact exec_failedPrecisely (hcheck.trans (State.bufferCheck_dstCapacity hcap))
  · exact exec_failedPrecisely (hcheck.trans (State.bufferCheck_addrRange hcap hrange))
  · have hpos : 0 < s.srcLen.toNat := Nat.lt_of_lt_of_le (by decide) hlegal.1
    exact exec_failedPrecisely (hcheck.trans
      (State.bufferCheck_overlap hcap hsrc hdst (rangesOverlap_eq_true hpos hpos hlow hhigh)))

/-- Settles O41: the effect of a failed command, and `engineTurn_withBus` for the accesses it does not make. -/
theorem everyFailureIsRecoverable : Obligations.EveryFailureIsRecoverable := by
  intro s t w hrun hstep hfail
  rw [step_of_run_zero hrun] at hstep
  have heff := engineTurn_effect hstep
  obtain ⟨hlengths, hdout⟩ := heff.sameResults hfail
  refine ⟨heff.sameOperands, hlengths, hdout, heff.lrange_eq_false hfail, heff.done,
    State.busy_of_idle heff.engine_idle, fun hbus =>
    ⟨heff.errAddr.resolve_right hbus, heff.mem_eq hfail hbus, fun m b => ?_⟩⟩
  have hrun' : (s.withBus m b).engine = .run w 0 := hrun
  exact (step_of_run_zero hrun').trans (engineTurn_withBus hfail hbus m b hstep)

/-- Settles O4: the next state is `raiseError` of the one before, which writes STATUS and the lifecycle alone. -/
theorem illegalWordCompletesWithIllegalOp : Obligations.IllegalWordCompletesWithIllegalOp := by
  intro s w e hrun hw
  exact ⟨_, step_of_illegalWord hrun hw, ⟨rfl, rfl, rfl, rfl, rfl⟩, sameEngineData_lifecycle s _ _ _ _ _,
    ⟨rfl, rfl, rfl, rfl, rfl⟩⟩

end Sys2Proof.Machine

/-! PROOFS. The statements of spec 70_reset_and_hazards.md: RESET (R230 to R232), the host's duty towards a running
command (R238), the hidden registers between commands (R240), and the time a command takes (R244, R246). -/

namespace Sys2Proof.Machine

/-! ### Accepted commands complete (R244) -/

/-- A run of `k + 1` steps that ends in a next state is a step that answers one, and a run of `k` steps from there. -/
theorem core_run_succ_inv {s t : State} {k : Nat} (h : core.run (k + 1) s = .next t) :
    ∃ u, step s = .next u ∧ core.run k u = .next t := by
  cases hstep : step s with
  | next u => exact ⟨u, rfl, (core_run_succ hstep k).symm.trans h⟩
  | fault r | refused r =>
    have hcore : core.step s = _ := hstep
    simp [Host.Core.run, hcore] at h

/-- Without RESET, a step of a command that has moves left takes one of them and nothing else of its lifecycle. -/
theorem step_of_wait {s t : State} {w : Word} {k : Nat} (hrun : s.engine = .run w (k + 1))
    (hreset : ∀ m ∈ s.prog, m ≠ .assertReset) (h : step s = .next t) :
    t.engine = .run w k ∧ t.prog = s.prog := by
  cases step_effect h with
  | completes hzero => simp [hrun] at hzero
  | accepts hidle | stores hidle => simp [hrun] at hidle
  | resets hturn => exact absurd rfl (hreset _ (List.mem_of_getElem? hturn.2))
  | losesCommand | writesStatus | keeps => exact ⟨State.ticked_engine_of_wait hrun, rfl⟩

/-- After `j` steps of its wait a command is still in RUN, with `j` moves fewer left. -/
theorem run_waiting {s u : State} {w : Word} {i j : Nat} (hrun : s.engine = .run w (j + i))
    (hreset : ∀ m ∈ s.prog, m ≠ .assertReset) (h : core.run j s = .next u) : u.engine = .run w i := by
  induction j generalizing s with
  | zero =>
    cases h
    rw [hrun, Nat.zero_add]
  | succ j ih =>
    obtain ⟨t, hstep, hrest⟩ := core_run_succ_inv h
    obtain ⟨hwait, hprog⟩ := step_of_wait (hrun.trans (by rw [Nat.succ_add])) hreset hstep
    exact ih hwait (hprog ▸ hreset) hrest

/-- After its wait and one step more it is complete (R52). -/
theorem run_completes {s t : State} {w : Word} {k : Nat} (hrun : s.engine = .run w k)
    (hreset : ∀ m ∈ s.prog, m ≠ .assertReset) (h : core.run (k + 1) s = .next t) :
    t.busy = false ∧ t.status.done = true := by
  induction k generalizing s with
  | zero =>
    obtain ⟨u, hstep, hend⟩ := core_run_succ_inv h
    cases hend
    rw [step_of_run_zero hrun] at hstep
    have heff := engineTurn_effect hstep
    exact ⟨State.busy_of_idle heff.engine_idle, heff.done⟩
  | succ k ih =>
    obtain ⟨u, hstep, hrest⟩ := core_run_succ_inv h
    obtain ⟨hwait, hprog⟩ := step_of_wait hrun hreset hstep
    exact ih hwait (hprog ▸ hreset) hrest

/-- If the host has ended, nothing can stop the run of a command. -/
theorem safeRun_of_programEnd {s : State} {w : Word} {k : Nat} (hrun : s.engine = .run w k)
    (hend : s.prog.length ≤ s.hpc) : SafeRun (k + 1) s := by
  induction k generalizing s with
  | zero =>
    obtain ⟨t, ht⟩ := engineTurn_next w s
    exact ⟨t, core_run_succ ((step_of_run_zero hrun).trans ht) 0⟩
  | succ k ih =>
    have hstep : step s = .next s.ticked :=
      step_of_programEnd (by simp [hrun]) (List.getElem?_eq_none hend)
    obtain ⟨t, ht⟩ := ih (State.ticked_engine_of_wait hrun) (by rw [s.ticked_eq]; exact hend)
    exact ⟨t, (core_run_succ hstep (k + 1)).trans ht⟩

/-- Settles O13: each clause by induction on the wait. -/
theorem acceptedCommandCompletes : Obligations.AcceptedCommandCompletes := by
  intro s w k hrun hreset
  refine ⟨fun j u hj h => ?_, fun t h => run_completes hrun hreset h, safeRun_of_programEnd hrun⟩
  have hsplit : s.engine = .run w (j + (k - j)) := by rw [hrun, Nat.add_sub_cancel' hj]
  exact run_waiting hsplit hreset h

/-! ### Busy time (R246) -/

/-- The state with another key, other fillers and tables, and another memory. -/
def State.withSecrets (s : State) (k : Vector Word 4) (f : Vector Word 3) (tb bt : Vector Word 16) (m : Memory) :
    State :=
  { s with key := k, fill := f, tbl := tb, mem := m, plat := { s.plat with builtin := bt } }

section
variable (s : State) (k : Vector Word 4) (f : Vector Word 3) (tb bt : Vector Word 16) (m : Memory)

theorem State.hostWriteReg_withSecrets_engine (r : Reg) (v : Word) :
    ((s.withSecrets k f tb bt m).hostWriteReg r v).engine = (s.hostWriteReg r v).engine := by
  have hbusy : (s.withSecrets k f tb bt m).busy = s.busy := rfl
  cases hb : s.busy with
  | true => rw [State.hostWriteReg_busy hb, State.hostWriteReg_busy (hbusy.trans hb)]; rfl
  | false => cases r <;> simp only [State.hostWriteReg, hbusy, hb] <;> rfl

theorem State.hostWrite_withSecrets_engine (off : BitVec 12) (wd : Width) (v : Word) :
    ((s.withSecrets k f tb bt m).hostWrite off wd v).engine = (s.hostWrite off wd v).engine := by
  have hdefined : accessDefined (s.withSecrets k f tb bt m).plat off wd = accessDefined s.plat off wd := rfl
  simp only [State.hostWrite, hdefined]
  split_ifs
  · exact s.hostWriteReg_withSecrets_engine k f tb bt m _ v
  · rfl

/-- A move that answers a next state answers one with any other secrets too, and leaves the engine in the same state:
what it is allowed to do depends on ranges, coherence and names, and its effect on the engine on BUSY and `waits`. -/
theorem State.runMove_withSecrets {t : State} {mv : Move} (h : s.runMove mv = .next t) :
    ∃ t', (s.withSecrets k f tb bt m).runMove mv = .next t' ∧ t'.engine = t.engine := by
  cases mv with
  | wr off wd v => cases h; exact ⟨_, rfl, s.hostWrite_withSecrets_engine k f tb bt m off wd v⟩
  | rd | invalidate | assertReset => cases h; exact ⟨_, rfl, rfl⟩
  | memw a bs =>
    have hallowed : (s.withSecrets k f tb bt m).storeAllowed = s.storeAllowed := rfl
    simp only [State.runMove, State.hostStore, hallowed] at h ⊢
    split_ifs at h ⊢
    cases h
    exact ⟨_, rfl, rfl⟩
  | memr a n x =>
    have hallowed : (s.withSecrets k f tb bt m).loadAllowed = s.loadAllowed := rfl
    simp only [State.runMove, State.hostLoad, hallowed] at h ⊢
    split_ifs at h ⊢
    cases h
    exact ⟨_, rfl, rfl⟩
  | bnz x mask target =>
    have hnamed : (s.withSecrets k f tb bt m).namedWord = s.namedWord := rfl
    simp only [State.runMove, State.branch, hnamed] at h ⊢
    split at h
    · cases h
      refine ⟨_, rfl, ?_⟩
      split_ifs <;> rfl
    · cases h

theorem State.ticked_withSecrets :
    (s.withSecrets k f tb bt m).ticked = s.ticked.withSecrets k f tb bt m := by
  have hengine : (s.withSecrets k f tb bt m).engine = s.engine := rfl
  simp only [State.ticked, hengine]
  split <;> rfl

theorem State.afterMove_withSecrets :
    (s.withSecrets k f tb bt m).afterMove = s.afterMove.withSecrets k f tb bt m := by
  rw [State.afterMove, s.ticked_withSecrets]
  rfl

end

/-- Settles O15: on the engine's turn both engines end in IDLE, and on the host's both wait or make the same move. -/
theorem busyTimeIsIndependentOfSecrets : Obligations.BusyTimeIsIndependentOfSecrets := by
  intro s t k f tb bt m h
  change ∃ t', step (s.withSecrets k f tb bt m) = .next t' ∧ t'.engine = t.engine
  have hengine : (s.withSecrets k f tb bt m).engine = s.engine := rfl
  by_cases hturn : ∀ w, s.engine ≠ .run w 0
  · cases hmove : s.prog[s.hpc]? with
    | none =>
      obtain rfl := Host.Outcome.next.inj ((step_of_programEnd hturn hmove).symm.trans h)
      refine ⟨_, step_of_programEnd (s := s.withSecrets k f tb bt m) hturn hmove, ?_⟩
      rw [s.ticked_withSecrets]
      rfl
    | some mv =>
      rw [step_of_hostTurn ⟨hturn, hmove⟩] at h
      rw [step_of_hostTurn (s := s.withSecrets k f tb bt m) ⟨hturn, hmove⟩, s.afterMove_withSecrets]
      exact s.afterMove.runMove_withSecrets k f tb bt m h
  · obtain ⟨w, hrun⟩ : ∃ w, s.engine = .run w 0 := by simpa using hturn
    obtain ⟨t', ht'⟩ := engineTurn_next w (s.withSecrets k f tb bt m)
    rw [step_of_run_zero hrun] at h
    refine ⟨t', (step_of_run_zero (hengine.trans hrun)).trans ht', ?_⟩
    rw [(engineTurn_effect ht').engine_idle, (engineTurn_effect h).engine_idle]

/-! ### Hidden registers (R48, R240) -/

/-- The state with other hidden registers. -/
def State.withSeq (s : State) (q : Sequencer) : State := { s with seq := q }

/-- The hidden registers that a memory phase finds, and those its blocks leave, change nothing else. -/
theorem State.memoryPhase_withSeq (s : State) (q : Sequencer) (xs : List Access) (g g' : Nat → Sequencer)
    (image : List Byte) (wlen : Nat) (v : Int) (off : Nat) :
    ∃ q', (s.withSeq q).memoryPhase xs g' image wlen (·.completeLength v off) =
      (s.memoryPhase xs g image wlen (·.completeLength v off)).withSeq q' := by
  have hplat : (s.withSeq q).plat = s.plat := rfl
  simp only [State.memoryPhase, hplat]
  cases s.plat.firstRefused xs <;> exact ⟨_, rfl⟩

theorem State.encrypt_withSeq (s : State) (q : Sequencer) (x : TableSelect) (o : ByteOrder) :
    ∃ q', (s.withSeq q).encrypt x o = (s.encrypt x o).withSeq q' := by
  have hcheck : (s.withSeq q).encCheck = s.encCheck := rfl
  have htable : (s.withSeq q).table x = s.table x := by cases x <;> rfl
  simp only [State.encrypt, State.startCipher_encCheck, State.startCipher_table, hcheck, htable]
  cases s.encCheck with
  | some e => exact ⟨_, rfl⟩
  | none => exact s.startCipher.memoryPhase_withSeq _ _ _ _ _ _ _ _

theorem State.decrypt_withSeq (s : State) (q : Sequencer) (x : TableSelect) (o : ByteOrder) :
    ∃ q', (s.withSeq q).decrypt x o = (s.decrypt x o).withSeq q' := by
  have hcheck : (s.withSeq q).decCheck = s.decCheck := rfl
  have htable : (s.withSeq q).table x = s.table x := by cases x <;> rfl
  simp only [State.decrypt, State.startCipher_decCheck, State.startCipher_table, hcheck, htable]
  cases s.decCheck with
  | some e => exact ⟨_, rfl⟩
  | none => exact s.startCipher.memoryPhase_withSeq _ _ _ _ _ _ _ _

/-- Settles O51: a cipher command starts its accumulators at 0 (R48), and no other command reads a hidden register. -/
theorem hiddenRegistersNeverMatter : Obligations.HiddenRegistersNeverMatter := by
  intro i s t q h
  cases i with
  | bswap16 o | bswap32 o | bswap64 o => cases h; exact ⟨q, rfl⟩
  | ctlen | ptlen => cases h; exact ⟨q, rfl⟩
  | encb o | encc o =>
    cases h
    obtain ⟨q', hq⟩ := s.encrypt_withSeq q _ o
    exact ⟨q', congrArg _ hq⟩
  | decb o | decc o =>
    cases h
    obtain ⟨q', hq⟩ := s.decrypt_withSeq q _ o
    exact ⟨q', congrArg _ hq⟩

/-! ### RESET and memory (R232) -/

theorem State.abandon_of_idle {s : State} (h : s.engine = .idle) : s.abandon = s := by
  simp [State.abandon, State.runningWriteLength, State.runningCommand, h]

/-- RESET makes each existing destination byte of the running cipher command that is no source byte a free value of its
own, and leaves every other byte (log 15). -/
theorem State.readByte_platformReset {s : State} (x : Nat) (h : s.mem.wf = true) :
    s.platformReset.mem.readByte x =
      if (s.inRunningDst x = true ∧ x < addressSpace) ∧ s.inRunningSrc x = false then
        Config.freeByte (s.draws + (x - s.dstAddr.toNat))
      else s.mem.readByte x := by
  rw [State.platformReset, State.resetRegisters_mem]
  rcases s.abandon_cases with ⟨hlen, he⟩ | ⟨wlen, hlen, he⟩
  · simp [he, State.inRunningDst, hlen]
  · have hdst : (s.inRunningDst x = true ∧ x < addressSpace) ↔
        s.dstAddr.toNat ≤ x ∧ x < s.dstAddr.toNat + s.destinationSize wlen := by
      simp only [State.inRunningDst, hlen, State.destinationSize, Bool.and_eq_true, decide_eq_true_eq]
      omega
    have hsrc : s.inRunningSrc x = s.inSource x := by simp [State.inRunningSrc, hlen]
    simp only [he, s.readByte_scrambleDestination wlen x h, hdst, hsrc]

@[simp] theorem State.afterMove_draws (s : State) : s.afterMove.draws = s.draws := by rw [s.afterMove_eq]

@[simp] theorem State.afterMove_dstAddr (s : State) : s.afterMove.dstAddr = s.dstAddr := by rw [s.afterMove_eq]

/-- Settles O57: no byte of `readByte_platformReset` that is drawn is one of these, and in IDLE nothing runs. -/
theorem resetKeepsMemoryOutsideTheDestination : Obligations.ResetKeepsMemoryOutsideTheDestination := by
  intro s hturn hm
  refine ⟨_, step_of_assertReset hturn, fun hidle => ?_, fun x hx => ?_⟩
  · have hstill : s.afterMove.abandon = s.afterMove :=
      State.abandon_of_idle (by rw [State.afterMove_of_idle hidle, hidle])
    rw [State.platformReset, State.resetRegisters_mem, hstill, State.afterMove_mem]
  · rw [State.readByte_platformReset x (by simpa using hm), State.afterMove_mem, if_neg]
    rcases hx with h | h <;> simp [h]

/-- Settles O58: these are the drawn bytes of `readByte_platformReset`. -/
theorem resetDrawsTheDestination : Obligations.ResetDrawsTheDestination := by
  intro s hturn hm
  refine ⟨_, step_of_assertReset hturn, rfl, rfl, rfl, fun x hx hdst hsrc => ?_⟩
  rw [State.readByte_platformReset x (by simpa using hm), if_pos ⟨⟨by simpa using hdst, hx⟩, by simpa using hsrc⟩,
    State.afterMove_draws, State.afterMove_dstAddr]

/-! ### Stores into a running command (R238, R243) -/

/-- A store that touches a byte the host may not store to is refused (log 12). -/
theorem State.hostStore_of_forbidden {s : State} {a : Word} {bs : List Byte} {x : Nat}
    (hexists : a.toNat + bs.length ≤ addressSpace) (hlo : a.toNat ≤ x) (hhi : x < a.toNat + bs.length)
    (hforbidden : s.storeAllowed x = false) : s.hostStore a bs = .refused .hostDuty := by
  have hall : ((List.range bs.length).all fun i => s.storeAllowed (a.toNat + i)) = false := by
    refine List.all_eq_false.mpr ⟨x - a.toNat, List.mem_range.mpr (by omega), ?_⟩
    rw [Nat.add_sub_cancel' hlo, hforbidden]
    decide
  rw [State.hostStore, rangeExists_eq_true.mpr hexists, hall]
  rfl

/-- The write length of a running cipher command is its own (R204), by the identity of R137 for an encryption. -/
theorem State.runningWriteLength_of_cipher {s : State} {w : Word} {k wlen : Nat} {i : Instr}
    (hrun : s.engine = .run w k) (hdecode : decode w = .ok i)
    (hcipher : ((∃ o, i = .encb o ∨ i = .encc o) ∧ wlen = cipherLength s.srcLen.toNat) ∨
      ((∃ o, i = .decb o ∨ i = .decc o) ∧ wlen = s.srcLen.toNat)) : s.runningWriteLength = some wlen := by
  have hcommand : s.runningCommand = some i := by simp [State.runningCommand, hrun, hdecode]
  rw [← ctlen_eq_cipherLength] at hcipher
  rw [State.runningWriteLength, hcommand]
  obtain ⟨⟨o, rfl | rfl⟩, rfl⟩ | ⟨⟨o, rfl | rfl⟩, rfl⟩ := hcipher <;> rfl

/-- Settles O53: the byte lies in one of the ranges that `storeAllowed` excludes. -/
theorem hostStoreIntoARunningCommandIsRefused : Obligations.HostStoreIntoARunningCommandIsRefused := by
  intro s w k a bs i wlen x hrun hdecode hcipher hmove hexists hlo hhi hwindow hx
  have hlen := State.runningWriteLength_of_cipher hrun hdecode hcipher
  have hrange : s.inRunningDst x = true ∨ s.inRunningSrc x = true := by
    simpa [State.inRunningDst, State.inRunningSrc, State.inSource, hlen] using hx.symm
  have hforbidden : s.afterMove.storeAllowed x = false := by
    rcases hrange with h | h <;> simp [State.storeAllowed, hwindow, h]
  have hturn : HostTurn s (.memw a bs) := ⟨by simp [hrun], hmove⟩
  exact (step_of_hostTurn hturn).trans (State.hostStore_of_forbidden hexists hlo hhi hforbidden)

/-! ### RESET and the registers (R230, R231) -/

/-- After a reset every register reads 0 but ID. -/
theorem State.resetRegisters_readReg (s : State) (r : Reg) :
    s.resetRegisters.readReg r = if r = .id then 0x54454131 else 0 := by
  cases r with
  | fill i | tbl i => simp [State.readReg]
  | status =>
    have hbusy := State.busy_of_idle s.resetRegisters_engine
    refine BitVec.eq_of_toNat_eq ?_
    rw [State.readReg, State.statusWord_toNat, hbusy]
    rfl
  | _ => rfl

theorem State.resetRegisters_key_getElem (s : State) (j : Fin 4) : s.resetRegisters.key[j] = 0 := by simp

/-- Settles O56: the next state, and `State.reset` itself, are `resetRegisters` of a state. -/
theorem resetGivesEveryRegisterItsValue : Obligations.ResetGivesEveryRegisterItsValue := by
  refine ⟨fun s hturn => ?_, rfl, State.reset.resetRegisters_readReg, State.reset.resetRegisters_key_getElem, rfl⟩
  exact ⟨_, step_of_assertReset hturn, rfl, State.resetRegisters_readReg _, State.resetRegisters_key_getElem _,
    rfl, rfl, rfl, rfl, rfl, rfl, s.afterMove.abandon_plat.trans s.afterMove_plat⟩

/-- Settles O59: `State.reset` is its own `resetRegisters`, and the empty memory is canonical. -/
theorem resetMeetsTheInvariant : Obligations.ResetMeetsTheInvariant :=
  State.resetRegisters_inv (s := .reset) rfl

end Sys2Proof.Machine
